-- ==== Sys2Proof/Word.lean ====
section
/-! DEFINITION. The word types of the cMIN-16a (00_scope.md R6, R9): 16-bit words, 20-bit physical word addresses, 4-bit register numbers. -/

namespace Sys2Proof

/-- A register, a memory word, an effective address, an instruction word (R6: XLEN, ILEN, EA_WIDTH are 16). -/
abbrev Word := BitVec 16

/-- Half a word. No byte of the hardware is addressable (R70); bytes are the cells in which the model lists memory. -/
abbrev Byte := BitVec 8

/-- A 32-bit value held in a register pair, high word in the even register (R34). -/
abbrev DWord := BitVec 32

/-- A 20-bit physical word address (R6: PA_WIDTH, R72). -/
abbrev PhysAddr := BitVec 20

/-- A 4-bit register field in plain binary: 0 names R0, 15 names R15, the program counter (R107). -/
abbrev Reg := BitVec 4

/-- R0, the destination of LDI (R31, R140). -/
abbrev Reg.r0 : Reg := 0

/-- R15, the program counter (R31, R36). -/
abbrev Reg.r15 : Reg := 15

end Sys2Proof
end

