-- ==== Sys2Proof/Config.lean ====
section
/-! DEFINITION. The parameters of 00_scope.md R7: what the sources leave open, each with the values 92_eei_decisions.md names. The values in use are `Sys2Proof.Machine.params` (Machine/Params.lean). No parameter is a free value: the spec decides each (assumption log 7). FLAG_DEFS, TRAP_SAVED_PC, MEM_ORDER and OPERAND_ORDER are marked fixed there and RESET_STATE has one value: they stand in the definitions of R11, R54, R83, R161 and R270, not here. SP_ALIAS, SMV_NAMES, CMP_TST and ASM_RANGE are the assembler's. -/

namespace Sys2Proof

/-- D1 (R50, R72): a segment register holds 16 bits and is shifted by 4, or holds 4 bits and is shifted by 16. -/
inductive SegWidth where
  | bits16Shift4
  | bits4Shift16
  deriving DecidableEq, Repr

/-- D2 (R72): a physical address past 2^20 wraps, or has no defined behaviour. -/
inductive PaWrap where
  | modulo
  | fault
  deriving DecidableEq, Repr

/-- D3 (R103): where the bit that the LD/ST and JMP formats leave unassigned lies. -/
inductive SpareBitPos where
  | bit0
  | afterOpcode
  | aboveLastField
  deriving DecidableEq, Repr

/-- D4 (R103, R114): a word whose spare bit is 1 is reserved, or the bit is ignored. -/
inductive SpareBitPolicy where
  | reserved
  | ignored
  deriving DecidableEq, Repr

/-- D5 (R201): what target8 means, with A the address of the jump. -/
inductive JmpTarget where
  | relASigned
  | relNextSigned
  | absoluteLow8
  deriving DecidableEq, Repr

/-- D6 (R38): R15 reads as the instruction's own address A, or as A + 1. -/
inductive PcRead where
  | ownAddress
  | nextAddress
  deriving DecidableEq, Repr

/-- D7 (R209): JRL's register number in the low or the high nibble of target8. -/
inductive JrlReg where
  | lowNibble
  | highNibble
  deriving DecidableEq, Repr

/-- D8 (R140): the extension of LDI's 15-bit immediate. -/
inductive LdiExt where
  | zero
  | sign
  deriving DecidableEq, Repr

/-- D10 (R44): a flag of N, Z, V, C that an instruction does not list keeps its value, or becomes 0. -/
inductive FlagKeep where
  | unchanged
  | cleared
  deriving DecidableEq, Repr

/-- D11 (R163): C after SUB is the borrow, or its complement. -/
inductive SubCarry where
  | borrow
  | notBorrow
  deriving DecidableEq, Repr

/-- D14 (R174): DIV by zero has no defined behaviour (fault), or enters vector 3 ("marked assumed"). -/
inductive DivZero where
  | fault
  | enterTrap3
  deriving DecidableEq, Repr

/-- D15 (R172): MUL or DIV with an odd Rd. -/
inductive OddPair where
  | fault
  | usePair
  | clearBit0
  deriving DecidableEq, Repr

/-- D16 (R182): what the C bit of a shift puts in. -/
inductive ShiftCarryIn where
  | orOneBit
  | rotateThroughCarry
  deriving DecidableEq, Repr

/-- D17 (R183): what a shift leaves in C. With `lastBitOut` and `unchanged` a count of 0 keeps C. Under `cleared`, not in use, the spec does not say what a count of 0 does; the model clears C there too: DESIGN CHOICE (log 19). -/
inductive ShiftCarryOut where
  | lastBitOut
  | unchanged
  | cleared
  deriving DecidableEq, Repr

/-- D18 (R43): I and S common to both views, or S alone, with an I bit in each view. -/
inductive PswBanking where
  | iCommon
  | iPerView
  deriving DecidableEq, Repr

/-- D19 (R271): how the vector table is used. -/
inductive VectorMode where
  | pointerTable
  | fixedEntry
  | jumpTable
  deriving DecidableEq, Repr

/-- D20 (R276): RETI leaves CS, or gives back the CS that trap entry latched ("marked assumed"). -/
inductive CsRestore where
  | no
  | yes
  deriving DecidableEq, Repr

/-- D21 (R278): a trap taken while S = 1 is entered like any other, or is refused. -/
inductive NestedTrap where
  | overwrite
  | refuse
  deriving DecidableEq, Repr

/-- D22 (R53, R265): the level of the request line counts, or its rising edge, latched until it is taken. -/
inductive IrqModel where
  | level
  | edgeLatched
  deriving DecidableEq, Repr

/-- D23 (R252): what ends the halted state. -/
inductive HltWake where
  | resetOnly
  | irqWhenI
  deriving DecidableEq, Repr

/-- D24 (R300): the view in which reset starts. -/
inductive ResetView where
  | normal
  | shadow
  deriving DecidableEq, Repr

/-- D25 (R210): the segment of LJMP's two table reads. -/
inductive LjmpSeg where
  | ds
  | cs
  deriving DecidableEq, Repr

/-- D26 (R114): what a reserved word does. -/
inductive ReservedPolicy where
  | fault
  | enterTrap3
  | nop
  deriving DecidableEq, Repr

/-- D27 (R262): whether the cases without defined behaviour enter vector 3. -/
inductive ExcVector3 where
  | never
  | onFault
  deriving DecidableEq, Repr

/-- D29 (R86): stores into the next two instruction words. -/
inductive IfetchCoherence where
  | refuseWindow2
  | alwaysCoherent
  deriving DecidableEq, Repr

/-- D33 (R80): what stands at a physical word. -/
inductive WordKind where
  | readWrite
  | unpopulated
  deriving DecidableEq, Repr

/-- D34 (R73, R150, R210): base + offset and LJMP's Rs + 1 past 2^16. -/
inductive EaWrap where
  | modulo
  | fault
  deriving DecidableEq, Repr

/-- D34 (R40, R201): A + 1 and a jump's A + target outside 0 to 0xFFFF. -/
inductive PcWrap where
  | modulo
  | fault
  deriving DecidableEq, Repr

/-- D37 (R222): SET or CLR with mask bit 4. -/
inductive SetClrS where
  | switchView
  | refuse
  deriving DecidableEq, Repr

/-- D38 (R224): MVS to CS. -/
inductive MvsCs where
  | immediate
  | refuse
  deriving DecidableEq, Repr

/-- The configuration of one machine, fixed while it runs (R7). `mulFn` and `divFn` are "total functions of the operand values alone" (R170); `memMap` is the memory map, which D33 leaves open (R80). -/
structure Config where
  segWidth : SegWidth
  paWrap : PaWrap
  spareBitPos : SpareBitPos
  spareBitPolicy : SpareBitPolicy
  jmpTarget : JmpTarget
  pcRead : PcRead
  jrlReg : JrlReg
  ldiExt : LdiExt
  flagKeep : FlagKeep
  subCarry : SubCarry
  mulFn : Word → Word → DWord
  divFn : DWord → Word → DWord
  divZero : DivZero
  oddPair : OddPair
  shiftCarryIn : ShiftCarryIn
  shiftCarryOut : ShiftCarryOut
  pswBanking : PswBanking
  vectorMode : VectorMode
  csRestore : CsRestore
  nestedTrap : NestedTrap
  irqModel : IrqModel
  hltWake : HltWake
  resetView : ResetView
  ljmpSeg : LjmpSeg
  reservedPolicy : ReservedPolicy
  excVector3 : ExcVector3
  ifetchCoherence : IfetchCoherence
  memMap : PhysAddr → WordKind
  eaWrap : EaWrap
  pcWrap : PcWrap
  setClrS : SetClrS
  mvsCs : MvsCs

end Sys2Proof
end

