-- ==== Sys2Proof/Machine/Params.lean ====
section
/-! DEFINITION. The values of the parameters of 00_scope.md R7 that this machine uses: the spec's defaults (assumption log 7). -/

namespace Sys2Proof.Machine

/-- MUL_FN, default of D12 (R171): the unsigned 16 x 16 to 32 product. -/
def mulUnsigned (a b : Word) : DWord :=
  a.setWidth 32 * b.setWidth 32

/-- DIV_FN, default of D13 (R173): the unsigned 32-bit quotient of a 32-bit dividend by a 16-bit divisor. -/
def divUnsigned (n : DWord) (b : Word) : DWord :=
  n / b.setWidth 32

/-- MEM_MAP, default of D33 (R80): all 2^20 words are read-write memory. -/
def allReadWrite (_ : PhysAddr) : WordKind :=
  .readWrite

/-- The configuration in use: every parameter at the default of R7. -/
def params : Config where
  segWidth := .bits16Shift4
  paWrap := .modulo
  spareBitPos := .bit0
  spareBitPolicy := .reserved
  jmpTarget := .relASigned
  pcRead := .ownAddress
  jrlReg := .lowNibble
  ldiExt := .zero
  flagKeep := .unchanged
  subCarry := .borrow
  mulFn := mulUnsigned
  divFn := divUnsigned
  divZero := .fault
  oddPair := .fault
  shiftCarryIn := .orOneBit
  shiftCarryOut := .lastBitOut
  pswBanking := .iCommon
  vectorMode := .pointerTable
  csRestore := .no
  nestedTrap := .overwrite
  irqModel := .level
  hltWake := .resetOnly
  resetView := .normal
  ljmpSeg := .ds
  reservedPolicy := .fault
  excVector3 := .never
  ifetchCoherence := .refuseWindow2
  memMap := allReadWrite
  eaWrap := .modulo
  pcWrap := .modulo
  setClrS := .switchView
  mvsCs := .immediate

end Sys2Proof.Machine
end

