-- ==== Sys2Proof/Syntax.lean ====
section
/-! DEFINITION. The instructions: one constructor of `Instr` per row of spec/opcode_table.json, operands already taken out of their fields (30_encoding.md R102, R106). -/

namespace Sys2Proof

/-- The four segment registers (10_state.md R50; codes in 30_encoding.md R108). -/
inductive Seg where
  | cs
  | ds
  | ss
  | es
  deriving DecidableEq, Repr

/-- The right operand of an ALU instruction: register Rs (i = 0) or the 4-bit immediate (i = 1) (42_alu.md R160). -/
inductive Operand where
  | reg (rs : Reg)
  | imm (v : BitVec 4)
  deriving DecidableEq, Repr

/-- One constructor per row of the opcode table, in the table's order. `w` is bit 5 of the ALU format: true writes Rd, false updates flags only (R160). A reserved row carries the bits its row leaves free, so that no two words decode to one instruction. -/
inductive Instr where
  | ldi (imm : BitVec 15)
  | ld (seg : Seg) (rd base : Reg) (offset : BitVec 2)
  | st (seg : Seg) (rd base : Reg) (offset : BitVec 2)
  | add (rd : Reg) (w : Bool) (b : Operand)
  | sub (rd : Reg) (w : Bool) (b : Operand)
  | and (rd : Reg) (w : Bool) (b : Operand)
  | or (rd : Reg) (w : Bool) (b : Operand)
  | xor (rd : Reg) (w : Bool) (b : Operand)
  | mul (rd : Reg) (w : Bool) (b : Operand)
  | div (rd : Reg) (w : Bool) (b : Operand)
  | sl (rd : Reg) (count : BitVec 3)
  | sr (rd : Reg) (count : BitVec 3)
  | sra (rd : Reg) (count : BitVec 3)
  | ror (rd : Reg) (count : BitVec 3)
  | slc (rd : Reg) (count : BitVec 3)
  | src (rd : Reg) (count : BitVec 3)
  | sac (rd : Reg) (count : BitVec 3)
  | roc (rd : Reg) (count : BitVec 3)
  | jmp (target : BitVec 8)
  | jz (target : BitVec 8)
  | jnz (target : BitVec 8)
  | jc (target : BitVec 8)
  | jnc (target : BitVec 8)
  | jn (target : BitVec 8)
  | jnn (target : BitVec 8)
  | jrl (rs : Reg)
  | lsi (rd : Reg) (imm : BitVec 7)
  | mov (rd rs : Reg) (imm : BitVec 2)
  | clr (mask : BitVec 8)
  | set (mask : BitVec 8)
  | mvsFromSeg (rd : Reg) (seg : Seg)
  | mvsToSeg (rd : Reg) (seg : Seg)
  | smvInactivePc (dst : Reg)
  | smvShadowPsw (dst : Reg)
  | smvNormalPsw (dst : Reg)
  | swb (rx : Reg)
  | inv (rx : Reg)
  | ljmp (rs : Reg)
  | nop
  | hlt
  | swi
  | reti
  /-- LD/ST with spare bit 1: bits 13..1 of the word. -/
  | reservedLdSt (low : BitVec 13)
  | reservedMulOdd (rd : Reg) (w : Bool) (b : Operand)
  | reservedDivOdd (rd : Reg) (w : Bool) (b : Operand)
  /-- A jump with spare bit 1: bits 11..1 of the word. -/
  | reservedJump (low : BitVec 11)
  /-- JRL with target8[7] = 1: bits 7..1 of the word. -/
  | reservedJrl7 (low : BitVec 7)
  /-- JRL with target8[7:6] = 01: bits 6..1 of the word. -/
  | reservedJrl6 (low : BitVec 6)
  /-- JRL with target8[7:5] = 001: bits 5..1 of the word. -/
  | reservedJrl5 (low : BitVec 5)
  /-- JRL with target8[7:4] = 0001: bits 4..1 of the word. -/
  | reservedJrl4 (low : BitVec 4)
  /-- Opcode 11111110: bits 7..0. -/
  | reservedOpcode (low : BitVec 8)
  | reservedSmv (dst : Reg)
  /-- SYS op 100 to 111: bits 1..0 of the op. -/
  | reservedSys (low : BitVec 2)
  /-- Thirteen or more leading ones: bits 2..0. -/
  | reservedOnes (low : BitVec 3)
  deriving DecidableEq, Repr

end Sys2Proof
end

