-- ==== Sys2Proof/WellFormed.lean ====
section
/-! DEFINITION. Which instructions an encoding of the spec can carry: MUL and DIV name an even register (42_alu.md R170, R172), their reserved rows an odd one. -/

namespace Sys2Proof

/-- An even register, the first of a pair Rd:Rd+1 (R34, R170). -/
def Reg.isEven (r : Reg) : Bool :=
  !r.getLsbD 0

/-- The checks on an instruction's operands. Every other operand is held to its field by its type. -/
def Instr.wellFormed : Instr → Bool
  | .mul rd _ _ => rd.isEven
  | .div rd _ _ => rd.isEven
  | .reservedMulOdd rd _ _ => !rd.isEven
  | .reservedDivOdd rd _ _ => !rd.isEven
  | .ldi _ => true
  | .ld _ _ _ _ => true
  | .st _ _ _ _ => true
  | .add _ _ _ => true
  | .sub _ _ _ => true
  | .and _ _ _ => true
  | .or _ _ _ => true
  | .xor _ _ _ => true
  | .sl _ _ => true
  | .sr _ _ => true
  | .sra _ _ => true
  | .ror _ _ => true
  | .slc _ _ => true
  | .src _ _ => true
  | .sac _ _ => true
  | .roc _ _ => true
  | .jmp _ => true
  | .jz _ => true
  | .jnz _ => true
  | .jc _ => true
  | .jnc _ => true
  | .jn _ => true
  | .jnn _ => true
  | .jrl _ => true
  | .lsi _ _ => true
  | .mov _ _ _ => true
  | .clr _ => true
  | .set _ => true
  | .mvsFromSeg _ _ => true
  | .mvsToSeg _ _ => true
  | .smvInactivePc _ => true
  | .smvShadowPsw _ => true
  | .smvNormalPsw _ => true
  | .swb _ => true
  | .inv _ => true
  | .ljmp _ => true
  | .nop => true
  | .hlt => true
  | .swi => true
  | .reti => true
  | .reservedLdSt _ => true
  | .reservedJump _ => true
  | .reservedJrl7 _ => true
  | .reservedJrl6 _ => true
  | .reservedJrl5 _ => true
  | .reservedJrl4 _ => true
  | .reservedOpcode _ => true
  | .reservedSmv _ => true
  | .reservedSys _ => true
  | .reservedOnes _ => true

end Sys2Proof
end

