-- ==== Sys2Proof/Decode.lean ====
section
/-! DEFINITION. The decoder (30_encoding.md R105) and, after it, the encoder (R101, R102), over the fields of R102. Every word decodes to exactly one instruction: the rows of spec/opcode_table.json partition all 65536 words, and a reserved word decodes to the constructor that names why it is reserved (R114). -/

namespace Sys2Proof

/-! ### Bits and bytes of a word -/

/-- The field of `len` bits whose lowest bit is bit `lo` of the word: v[lo+len-1:lo] of R8. -/
def bits (w : Word) (lo len : Nat) : BitVec len :=
  w.extractLsb' lo len

/-- The two byte cells of a word, bits 7:0 first. DESIGN CHOICE (log 6), safe: no access of the hardware is narrower than a word (R76). -/
def Word.toBytes (w : Word) : List Byte :=
  [bits w 0 8, bits w 8 8]

/-- The word of two byte cells, the first holding bits 7:0 (log 6). -/
def Word.ofBytes (lo hi : Byte) : Word :=
  hi ++ lo

/-! ### The placement of the two formats with an unassigned bit -/

/-- Moves bit `k` of the word to bit 0, the bits below it one place up. -/
def spareToBit0 (k : Nat) (w : Word) : Word :=
  BitVec.ofNat 16 (w.toNat / 2 ^ (k + 1) * 2 ^ (k + 1) + w.toNat % 2 ^ k * 2 + w.toNat / 2 ^ k % 2)

/-- Moves bit 0 of the word to bit `k`, the bits up to it one place down: undoes `spareToBit0`. -/
def spareFromBit0 (k : Nat) (w : Word) : Word :=
  BitVec.ofNat 16 (w.toNat / 2 ^ (k + 1) * 2 ^ (k + 1) + w.toNat % 2 * 2 ^ k + w.toNat / 2 % 2 ^ k)

/-- The two nibbles of target8 (bits 8:1) exchanged. -/
def swapTargetNibbles (w : Word) : Word :=
  bits w 9 7 ++ bits w 1 4 ++ bits w 5 4 ++ bits w 0 1

/-- The bit that a placement of D3 leaves unassigned, in a format whose opcode ends just above `top` and whose last field has `last` bits. -/
def SpareBitPos.index (top last : Nat) : SpareBitPos → Nat
  | .bit0 => 0
  | .afterOpcode => top
  | .aboveLastField => last

/-- How many 1 bits stand in a row from bit `k - 1` down. -/
def onesBelow (w : Word) : Nat → Nat
  | 0 => 0
  | k + 1 => if w.getLsbD k then onesBelow w k + 1 else 0

/-- The number of consecutive 1 bits of the word from bit 15 down: it names the opcode group (R100, R105). -/
def leadingOnes (w : Word) : Nat :=
  onesBelow w 16

/-- Brings a word of the configured placement (D3, D7) into the layout of R102: the spare bit at bit 0, JRL's register in the low nibble. At the defaults it is the word itself. -/
def toLayout (w : Word) : Word :=
  match Machine.params.spareBitPos, Machine.params.jrlReg with
  | .bit0, .lowNibble => w
  | pos, nibble =>
    match leadingOnes w with
    | 1 => spareToBit0 (pos.index 13 2) w
    | 3 =>
      let v := spareToBit0 (pos.index 11 8) w
      if nibble = .highNibble ∧ bits v 9 3 = 7 then swapTargetNibbles v else v
    | _ => w

/-- Undoes `toLayout`. -/
def fromLayout (w : Word) : Word :=
  match Machine.params.spareBitPos, Machine.params.jrlReg with
  | .bit0, .lowNibble => w
  | pos, nibble =>
    match leadingOnes w with
    | 1 => spareFromBit0 (pos.index 13 2) w
    | 3 =>
      let v := if nibble = .highNibble ∧ bits w 9 3 = 7 then swapTargetNibbles w else w
      spareFromBit0 (pos.index 11 8) v
    | _ => w

/-- The spare bit makes the word reserved: it is 1 and the policy is D4's default (R103, R114). -/
def spareReserved (w : Word) : Bool :=
  w.getLsbD 0 && decide (Machine.params.spareBitPolicy = .reserved)

/-! ### The decoder -/

/-- Segment codes of R108. -/
def Seg.ofCode (c : BitVec 2) : Seg :=
  if c = 0 then .cs else if c = 1 then .ds else if c = 2 then .ss else .es

/-- Bits 4:0 of the ALU format: i and Rs/imm4 (R102, R107). -/
def Operand.ofBits (w : Word) : Operand :=
  if w.getLsbD 4 then .imm (bits w 0 4) else .reg (bits w 0 4)

/-- Group `10`: LD, ST (R102, R103). -/
def decodeLoadStore (w : Word) : Instr :=
  if spareReserved w then .reservedLdSt (bits w 1 13)
  else if w.getLsbD 13 then .st (Seg.ofCode (bits w 11 2)) (bits w 7 4) (bits w 3 4) (bits w 1 2)
  else .ld (Seg.ofCode (bits w 11 2)) (bits w 7 4) (bits w 3 4) (bits w 1 2)

/-- The Shift format, C and T in bits 5 and 4:3 (R102, R110). -/
def decodeShift (w : Word) : Instr :=
  let rd : Reg := bits w 6 4
  let count := bits w 0 3
  match (bits w 3 3).toNat with
  | 0 => .sl rd count
  | 1 => .sr rd count
  | 2 => .sra rd count
  | 3 => .ror rd count
  | 4 => .slc rd count
  | 5 => .src rd count
  | 6 => .sac rd count
  | _ => .roc rd count

/-- Group `110`: the ALU format, op in bits 12:10 (R102, R109); MUL and DIV with an odd Rd are reserved (R105, R172). -/
def decodeAlu (w : Word) : Instr :=
  let rd : Reg := bits w 6 4
  let writes := w.getLsbD 5
  let b := Operand.ofBits w
  match (bits w 10 3).toNat with
  | 0 => .add rd writes b
  | 1 => .sub rd writes b
  | 2 => .and rd writes b
  | 3 => .or rd writes b
  | 4 => .xor rd writes b
  | 5 => if rd.isEven then .mul rd writes b else .reservedMulOdd rd writes b
  | 6 => if rd.isEven then .div rd writes b else .reservedDivOdd rd writes b
  | _ => decodeShift w

/-- Jump type 111: the register is target8[3:0], and target8[7:4] must be 0 (R209). -/
def decodeJrl (w : Word) : Instr :=
  if w.getLsbD 8 then .reservedJrl7 (bits w 1 7)
  else if w.getLsbD 7 then .reservedJrl6 (bits w 1 6)
  else if w.getLsbD 6 then .reservedJrl5 (bits w 1 5)
  else if w.getLsbD 5 then .reservedJrl4 (bits w 1 4)
  else .jrl (bits w 1 4)

/-- Group `1110`: the jumps, type in bits 11:9 (R102, R111). -/
def decodeJump (w : Word) : Instr :=
  if spareReserved w then .reservedJump (bits w 1 11)
  else
    let target := bits w 1 8
    match (bits w 9 3).toNat with
    | 0 => .jmp target
    | 1 => .jz target
    | 2 => .jnz target
    | 3 => .jc target
    | 4 => .jnc target
    | 5 => .jn target
    | 6 => .jnn target
    | _ => decodeJrl w

/-- Group `111111110`: MVS, D in bit 6 (R102). -/
def decodeMvs (w : Word) : Instr :=
  if w.getLsbD 6 then .mvsToSeg (bits w 2 4) (Seg.ofCode (bits w 0 2))
  else .mvsFromSeg (bits w 2 4) (Seg.ofCode (bits w 0 2))

/-- Group `1111111110`: SMV, SRC in bits 5:4 (R102, R113). -/
def decodeSmv (w : Word) : Instr :=
  match (bits w 4 2).toNat with
  | 0 => .smvInactivePc (bits w 0 4)
  | 1 => .smvShadowPsw (bits w 0 4)
  | 2 => .smvNormalPsw (bits w 0 4)
  | _ => .reservedSmv (bits w 0 4)

/-- Group `1111111111110`: SYS, op in bits 2:0 (R112). -/
def decodeSys (w : Word) : Instr :=
  match (bits w 0 3).toNat with
  | 0 => .nop
  | 1 => .hlt
  | 2 => .swi
  | 3 => .reti
  | _ => .reservedSys (bits w 0 2)

/-- The decoding procedure of R105, on a word in the layout of R102. -/
def decodeLayout (w : Word) : Instr :=
  match leadingOnes w with
  | 0 => .ldi (bits w 0 15)
  | 1 => decodeLoadStore w
  | 2 => decodeAlu w
  | 3 => decodeJump w
  | 4 => .lsi (bits w 7 4) (bits w 0 7)
  | 5 => .mov (bits w 6 4) (bits w 2 4) (bits w 0 2)
  | 6 => if w.getLsbD 8 then .set (bits w 0 8) else .clr (bits w 0 8)
  | 7 => .reservedOpcode (bits w 0 8)
  | 8 => decodeMvs w
  | 9 => decodeSmv w
  | 10 => if w.getLsbD 4 then .inv (bits w 0 4) else .swb (bits w 0 4)
  | 11 => .ljmp (bits w 0 4)
  | 12 => decodeSys w
  | _ => .reservedOnes (bits w 0 3)

/-- The instruction a fetched word is (R105). -/
def decodeWord (w : Word) : Instr :=
  decodeLayout (toLayout w)

/-- Why bytes are no instruction: fewer than the two bytes of a word (every instruction is one word, R100). A reserved word is no such case: it decodes to its reserved constructor. -/
inductive DecodeError where
  | truncated
  deriving DecidableEq, Repr

/-- The first instruction of a list of bytes and the bytes after it. -/
def decode : List Byte → Except DecodeError (Instr × List Byte)
  | lo :: hi :: rest => .ok (decodeWord (Word.ofBytes lo hi), rest)
  | _ => .error .truncated

/-! ### The encoder -/

/-- A field of a format in the notation of R101: its width and its bits. -/
abbrev Field := (width : Nat) × BitVec width

/-- The number whose binary digits are those of `acc` followed by the fields, the first the most significant (R101). -/
def packNat : List Field → Nat → Nat
  | [], acc => acc
  | ⟨width, v⟩ :: rest, acc => packNat rest (acc * 2 ^ width + v.toNat)

/-- The word of a format: its fields "adjacent, with no gap, starting at bit 15" (R101). -/
def pack (fields : List Field) : Word :=
  BitVec.ofNat 16 (packNat fields 0)

/-- Segment codes of R108. -/
def Seg.code : Seg → BitVec 2
  | .cs => 0
  | .ds => 1
  | .ss => 2
  | .es => 3

/-- i, then Rs or imm4 (R102). -/
def Operand.fields : Operand → List Field
  | .reg rs => [⟨1, 0⟩, ⟨4, rs⟩]
  | .imm v => [⟨1, 1⟩, ⟨4, v⟩]

/-- `[10][L/S][Seg2][Rd4][Base4][offset2]` and the spare bit (R102, R103). -/
def encodeLoadStore (store : BitVec 1) (seg : Seg) (rd base : Reg) (offset : BitVec 2) : Word :=
  pack [⟨2, 0b10⟩, ⟨1, store⟩, ⟨2, seg.code⟩, ⟨4, rd⟩, ⟨4, base⟩, ⟨2, offset⟩, ⟨1, 0⟩]

/-- `[110][op3][Rd4][w1][i1][Rs/imm4]` (R102). -/
def encodeAlu (op : BitVec 3) (rd : Reg) (w : Bool) (b : Operand) : Word :=
  pack ([⟨3, 0b110⟩, ⟨3, op⟩, ⟨4, rd⟩, ⟨1, BitVec.ofBool w⟩] ++ b.fields)

/-- `[110][111][Rd4][C1][T2][count3]` (R102). -/
def encodeShift (c : BitVec 1) (t : BitVec 2) (rd : Reg) (count : BitVec 3) : Word :=
  pack [⟨3, 0b110⟩, ⟨3, 0b111⟩, ⟨4, rd⟩, ⟨1, c⟩, ⟨2, t⟩, ⟨3, count⟩]

/-- `[1110][type3][target8]` and the spare bit (R102, R103). -/
def encodeJump (type : BitVec 3) (target : BitVec 8) : Word :=
  pack [⟨4, 0b1110⟩, ⟨3, type⟩, ⟨8, target⟩, ⟨1, 0⟩]

/-- The word of an instruction in the layout of R102. -/
def encodeLayout : Instr → Word
  | .ldi imm => pack [⟨1, 0⟩, ⟨15, imm⟩]
  | .ld seg rd base offset => encodeLoadStore 0 seg rd base offset
  | .st seg rd base offset => encodeLoadStore 1 seg rd base offset
  | .add rd w b => encodeAlu 0b000 rd w b
  | .sub rd w b => encodeAlu 0b001 rd w b
  | .and rd w b => encodeAlu 0b010 rd w b
  | .or rd w b => encodeAlu 0b011 rd w b
  | .xor rd w b => encodeAlu 0b100 rd w b
  | .mul rd w b => encodeAlu 0b101 rd w b
  | .div rd w b => encodeAlu 0b110 rd w b
  | .sl rd count => encodeShift 0 0b00 rd count
  | .sr rd count => encodeShift 0 0b01 rd count
  | .sra rd count => encodeShift 0 0b10 rd count
  | .ror rd count => encodeShift 0 0b11 rd count
  | .slc rd count => encodeShift 1 0b00 rd count
  | .src rd count => encodeShift 1 0b01 rd count
  | .sac rd count => encodeShift 1 0b10 rd count
  | .roc rd count => encodeShift 1 0b11 rd count
  | .jmp target => encodeJump 0b000 target
  | .jz target => encodeJump 0b001 target
  | .jnz target => encodeJump 0b010 target
  | .jc target => encodeJump 0b011 target
  | .jnc target => encodeJump 0b100 target
  | .jn target => encodeJump 0b101 target
  | .jnn target => encodeJump 0b110 target
  | .jrl rs => pack [⟨4, 0b1110⟩, ⟨3, 0b111⟩, ⟨4, 0⟩, ⟨4, rs⟩, ⟨1, 0⟩]
  | .lsi rd imm => pack [⟨5, 0b11110⟩, ⟨4, rd⟩, ⟨7, imm⟩]
  | .mov rd rs imm => pack [⟨6, 0b111110⟩, ⟨4, rd⟩, ⟨4, rs⟩, ⟨2, imm⟩]
  | .clr mask => pack [⟨7, 0b1111110⟩, ⟨1, 0⟩, ⟨8, mask⟩]
  | .set mask => pack [⟨7, 0b1111110⟩, ⟨1, 1⟩, ⟨8, mask⟩]
  | .mvsFromSeg rd seg => pack [⟨9, 0b111111110⟩, ⟨1, 0⟩, ⟨4, rd⟩, ⟨2, seg.code⟩]
  | .mvsToSeg rd seg => pack [⟨9, 0b111111110⟩, ⟨1, 1⟩, ⟨4, rd⟩, ⟨2, seg.code⟩]
  | .smvInactivePc dst => pack [⟨10, 0b1111111110⟩, ⟨2, 0b00⟩, ⟨4, dst⟩]
  | .smvShadowPsw dst => pack [⟨10, 0b1111111110⟩, ⟨2, 0b01⟩, ⟨4, dst⟩]
  | .smvNormalPsw dst => pack [⟨10, 0b1111111110⟩, ⟨2, 0b10⟩, ⟨4, dst⟩]
  | .swb rx => pack [⟨11, 0b11111111110⟩, ⟨1, 0⟩, ⟨4, rx⟩]
  | .inv rx => pack [⟨11, 0b11111111110⟩, ⟨1, 1⟩, ⟨4, rx⟩]
  | .ljmp rs => pack [⟨12, 0b111111111110⟩, ⟨4, rs⟩]
  | .nop => pack [⟨13, 0b1111111111110⟩, ⟨3, 0b000⟩]
  | .hlt => pack [⟨13, 0b1111111111110⟩, ⟨3, 0b001⟩]
  | .swi => pack [⟨13, 0b1111111111110⟩, ⟨3, 0b010⟩]
  | .reti => pack [⟨13, 0b1111111111110⟩, ⟨3, 0b011⟩]
  | .reservedLdSt low => pack [⟨2, 0b10⟩, ⟨13, low⟩, ⟨1, 1⟩]
  | .reservedMulOdd rd w b => encodeAlu 0b101 rd w b
  | .reservedDivOdd rd w b => encodeAlu 0b110 rd w b
  | .reservedJump low => pack [⟨4, 0b1110⟩, ⟨11, low⟩, ⟨1, 1⟩]
  | .reservedJrl7 low => pack [⟨8, 0b11101111⟩, ⟨7, low⟩, ⟨1, 0⟩]
  | .reservedJrl6 low => pack [⟨9, 0b111011101⟩, ⟨6, low⟩, ⟨1, 0⟩]
  | .reservedJrl5 low => pack [⟨10, 0b1110111001⟩, ⟨5, low⟩, ⟨1, 0⟩]
  | .reservedJrl4 low => pack [⟨11, 0b11101110001⟩, ⟨4, low⟩, ⟨1, 0⟩]
  | .reservedOpcode low => pack [⟨8, 0b11111110⟩, ⟨8, low⟩]
  | .reservedSmv dst => pack [⟨10, 0b1111111110⟩, ⟨2, 0b11⟩, ⟨4, dst⟩]
  | .reservedSys low => pack [⟨13, 0b1111111111110⟩, ⟨1, 1⟩, ⟨2, low⟩]
  | .reservedOnes low => pack [⟨13, 0b1111111111111⟩, ⟨3, low⟩]

/-- The word of a well-formed instruction. -/
def encodeWord (i : Instr) : Word :=
  fromLayout (encodeLayout i)

/-- The bytes of a well-formed instruction, in the order of the memory cells (log 6). -/
def encode (i : Instr) : List Byte :=
  (encodeWord i).toBytes

/-! ### The opcode table's question -/

/-- The first word of an instruction whose bits are `w` in `nbits` bits, the bits above them 0. -/
def firstWord (nbits w : Nat) : Word :=
  BitVec.ofNat 16 (w % 2 ^ nbits)

/-- The instruction the decoder reads from the `nbits` bits `w`; none where they do not fit the one word an instruction has (R100). -/
def decodeTableWord (nbits w : Nat) : Option Instr :=
  if w % 2 ^ nbits < 2 ^ 16 then
    match decode (firstWord nbits w).toBytes with
    | .ok (i, _) => some i
    | .error _ => none
  else none

end Sys2Proof
end

