-- ==== Sys2Proof/Machine/State.lean ====
section
/-! DEFINITION. The state of one cMIN-16a core (10_state.md R30), what can stop a step, and the state after reset (10_state.md R54, 70_reset_and_hazards.md R300). -/

namespace Sys2Proof.Machine

/-- The two views of program counter and flags: normal while S = 0, shadow while S = 1 (R36, R43, R47). -/
inductive View where
  | normal
  | shadow
  deriving DecidableEq, Repr

/-- One flag bank (R43): N, Z, V, C (PSW bits 0 to 3), and U6, U7 (PSW bits 6, 7), which have no function (R48). -/
structure FlagBank where
  n : Bool
  z : Bool
  v : Bool
  c : Bool
  u6 : Bool
  u7 : Bool
  deriving DecidableEq, Repr

/-- The levels of the core's inputs at one instruction boundary: the hardware interrupt request (R53, R263) and the reset event (R260 row 0, R300). -/
structure Pins where
  irqLine : Bool
  resetLine : Bool
  deriving DecidableEq, Repr

/-- What three parameters of R7 need beside the record of R30, at values other than those in use: I of the shadow view (PSW_BANKING), the CS that trap entry latched (CS_RESTORE), the latched request and the line's last level (IRQ_MODEL). No step of the machine in use reads it, and none but a reset event writes it (log 8). -/
structure Latches where
  iShadow : Bool
  savedCs : Word
  irqPending : Bool
  irqPrev : Bool
  deriving DecidableEq, Repr

/-- Memory as byte cells: word `p` is the cells `2 * p` (bits 7:0) and `2 * p + 1` (bits 15:8) (log 6). Strictly rising addresses (`Memory.wf`). -/
abbrev Memory := List Host.Cell

/-- The state of the core (R30). `latches` serves parameter values not in use (log 8). `inputs` is the model's own field, not the core's: what the environment will drive at this and the following boundaries, both lines low once the list is empty. DESIGN CHOICE (log 4), unsafe for a claim about one schedule only. -/
structure State where
  /-- R0 to R14 (R31, R35); R15 is the active program counter (R36). -/
  regs : Vector Word 15
  /-- PCv[0] (R36). -/
  pcNormal : Word
  /-- PCv[1] (R36). -/
  pcShadow : Word
  /-- FL[0] (R43). -/
  flNormal : FlagBank
  /-- FL[1] (R43). -/
  flShadow : FlagBank
  /-- I, PSW bit 5, common to both views (R43, R46). -/
  iBit : Bool
  /-- S, PSW bit 4, common to both views (R43, R47). -/
  sBit : Bool
  /-- SEG[0] (R50). -/
  cs : Word
  /-- SEG[1] (R50). -/
  ds : Word
  /-- SEG[2] (R50). -/
  ss : Word
  /-- SEG[3] (R50). -/
  es : Word
  /-- Set by HLT, cleared by reset (R252). -/
  halted : Bool
  /-- The 2^20 words (R51, R70). -/
  mem : Memory
  latches : Latches
  inputs : List Pins
  deriving DecidableEq, Repr

/-- The spec's `raise`: the sources define no behaviour and the model stops (R10, R262). It is no trap of the hardware. -/
inductive Fault where
  /-- A word without meaning (R114): raised by the reserved rows of the opcode table. Safe: no claim can rest on what the chip does. -/
  | reserved (w : Word)
  /-- MUL or DIV with an odd Rd (R172). Safe. -/
  | oddPair (rd : Reg)
  /-- DIV with a zero divisor (R174). Safe. -/
  | divideByZero
  /-- A store into one of the two words after it in the instruction stream (R86). Safe. -/
  | fetchHazard (pa : PhysAddr)
  /-- A read of a memory word that neither the start state nor a store defined: fetch, LD, LJMP, the vector of a trap or reset (R262, R302); and, in a configuration whose MEM_MAP leaves a word out, any access to it (R80, U15). Safe. -/
  | unspecified (pa : PhysAddr)
  /-- Base + offset, or LJMP's Rs + 1, past 0xFFFF: only under EA_WRAP = fault (D34), not in use. Safe. -/
  | eaWrap (base : Word)
  /-- SEG * 16 + EA past 2^20: only under PA_WRAP = fault (D2), not in use. Safe. -/
  | paWrap (seg ea : Word)
  /-- A + 1 or a jump's target outside 0 to 0xFFFF: only under PC_WRAP = fault (D34), not in use. Safe. -/
  | pcWrap (a : Word)
  /-- A trap through vector `k` while S = 1: only under NESTED_TRAP = refuse (R278), not in use. Safe. -/
  | nestedTrap (k : Nat)
  /-- SET or CLR with mask bit 4: only under SETCLR_S = refuse (R222), not in use. Safe. -/
  | viewSwitch (mask : BitVec 8)
  /-- MVS to CS: only under MVS_CS = refuse (R224), not in use. Safe. -/
  | codeSegmentMove
  deriving DecidableEq, Repr

/-- Why an instruction has no meaning in the model. -/
inductive Refusal where
  /-- An instruction not modelled yet, raised in `exec`'s arm alone; no arm raises it now. Safe. -/
  | notModelled (mnemonic : String)
  deriving DecidableEq, Repr

/-- What executing something answers. -/
abbrev Result (σ : Type) := Host.Outcome σ Fault Refusal

/-- A bank with every flag 0. -/
def FlagBank.clear : FlagBank where
  n := false
  z := false
  v := false
  c := false
  u6 := false
  u7 := false

/-- The machine right after reset (R54, R300): S = 0, I = 0, CS = 0, not halted, PCv[0] = vector(0). No boot image is part of the model, so memory defines no word at all (R302), and PCv[0] is the 0x0100 that the table of M §8.1 gives vector word 0 and that the image must put there (R54, R81, R303): DESIGN CHOICE (log 2), unsafe for an image with another word 0. S = 0 and that program counter stand at every value of RESET_VIEW and VECTOR_MODE; only the reset event reads these: DESIGN CHOICE (log 20). The values R54 calls unspecified are 0: DESIGN CHOICE (log 1), unsafe. -/
def State.reset : State where
  regs := Vector.replicate 15 0
  pcNormal := 0x0100
  pcShadow := 0
  flNormal := FlagBank.clear
  flShadow := FlagBank.clear
  iBit := false
  sBit := false
  cs := 0
  ds := 0
  ss := 0
  es := 0
  halted := false
  mem := []
  latches := { iShadow := false, savedCs := 0, irqPending := false, irqPrev := false }
  inputs := []

end Sys2Proof.Machine
end

