-- ==== Sys2Proof/Machine/Ops.lean ====
section
/-! DEFINITION. The named operations over memory, registers, program counters, flag banks, the status word and the segment registers; `raise`; trap entry, trap return and the reset event. -/

namespace Sys2Proof.Machine

/-! ### Memory (20_memory.md R70 to R83) -/

/-- What an unlisted byte cell reads as: no value, the words of the vector table included (R302, U15). -/
def unlisted : Option Byte :=
  none

/-- The byte cells of the 2^20 words (R71). -/
def cellCount : Nat := 2 ^ 21

/-- The cell listed at an address. -/
def Memory.find : Memory → Nat → Option Byte
  | [], _ => none
  | (k, b) :: rest, a => if k = a then some b else Memory.find rest a

/-- The byte at an address, none where neither the start state nor a store defined it. -/
def Memory.readByte (m : Memory) (a : Nat) : Option Byte :=
  match m.find a with
  | some b => some b
  | none => unlisted

/-- Lists a cell, keeping the addresses rising. -/
def Memory.insert : Memory → Nat → Byte → Memory
  | [], a, b => [(a, b)]
  | (k, c) :: rest, a, b =>
    if a < k then (a, b) :: (k, c) :: rest
    else if a = k then (a, b) :: rest
    else (k, c) :: Memory.insert rest a b

/-- Stores one byte. No byte equals what an unlisted address reads as, so every byte stored is listed. -/
def Memory.writeByte (m : Memory) (a : Nat) (b : Byte) : Memory :=
  m.insert a b

/-- The two bytes of a word, none where one of them was never defined (R302). -/
def Memory.wordAt (m : Memory) (pa : PhysAddr) : Option Word :=
  match m.readByte (2 * pa.toNat), m.readByte (2 * pa.toNat + 1) with
  | some lo, some hi => some (Word.ofBytes lo hi)
  | _, _ => none

/-- MemRead(pa, 1) of R10: the 16-bit word, none where it was never defined (R302) or where the memory map has no word (R80, parameter MEM_MAP). -/
def Memory.readWord (m : Memory) (pa : PhysAddr) : Option Word :=
  match params.memMap pa with
  | .readWrite => m.wordAt pa
  | .unpopulated => none

/-- MemWrite(pa, 1, v) of R10: all 16 bits of the word (R76, R79). -/
def Memory.writeWord (m : Memory) (pa : PhysAddr) (v : Word) : Memory :=
  (m.writeByte (2 * pa.toNat) (bits v 0 8)).writeByte (2 * pa.toNat + 1) (bits v 8 8)

/-- Every address of the list is above `a`, and the list rises. -/
def Memory.risesAbove : Option Nat → Memory → Bool
  | _, [] => true
  | low, (k, _) :: rest =>
    (match low with
      | none => true
      | some a => decide (a < k)) && Memory.risesAbove (some k) rest

/-- The canonical form: rising addresses, all inside the address space. No cell equals what an unlisted address reads as, since that is no value. -/
def Memory.wf (m : Memory) : Bool :=
  Memory.risesAbove none m && m.all fun cell => decide (cell.1 < cellCount)

/-! ### Views: program counters and flag banks (10_state.md R36 to R47) -/

/-- The view that is not this one. -/
def View.other : View → View
  | .normal => .shadow
  | .shadow => .normal

/-- The view S selects (R47). -/
def State.view (s : State) : View :=
  if s.sBit then .shadow else .normal

/-- PCv[v] (R36). -/
def State.pcOf (s : State) : View → Word
  | .normal => s.pcNormal
  | .shadow => s.pcShadow

/-- PCv[v] <- a. -/
def State.setPcOf (s : State) (v : View) (a : Word) : State :=
  match v with
  | .normal => { s with pcNormal := a }
  | .shadow => { s with pcShadow := a }

/-- FL[v] (R43). -/
def State.flagsOf (s : State) : View → FlagBank
  | .normal => s.flNormal
  | .shadow => s.flShadow

/-- FL[v] <- f. -/
def State.setFlagsOf (s : State) (v : View) (f : FlagBank) : State :=
  match v with
  | .normal => { s with flNormal := f }
  | .shadow => { s with flShadow := f }

/-- The active program counter PCv[S] (R36): at the start of an instruction, its own address A (R10). -/
def State.pc (s : State) : Word :=
  s.pcOf s.view

/-- pc <- target (R10). -/
def State.setPc (s : State) (a : Word) : State :=
  s.setPcOf s.view a

/-- The active flag bank FL[S] (R43, R44). -/
def State.flags (s : State) : FlagBank :=
  s.flagsOf s.view

/-- FL[S] <- f. -/
def State.setFlags (s : State) (f : FlagBank) : State :=
  s.setFlagsOf s.view f

/-- N, Z, V and C as an instruction leaves them that lists none of them: as they were (R44, parameter FLAG_KEEP). -/
def FlagBank.kept (f : FlagBank) : FlagBank :=
  match params.flagKeep with
  | .unchanged => f
  | .cleared => { f with n := false, z := false, v := false, c := false }

/-- The active bank before an instruction writes the flags it lists (R44, parameter FLAG_KEEP). -/
def State.keepFlags (s : State) : State :=
  match params.flagKeep with
  | .unchanged => s
  | .cleared => s.setFlags s.flags.kept

/-- What every instruction does before its own writes: the program counter becomes A + 1 modulo 2^16 (R37, R40), and a flag it does not list is kept. -/
def State.advance (s : State) : State :=
  s.keepFlags.setPc (s.pc + 1)

/-! ### General registers (10_state.md R31, R38, R39) -/

/-- x[r]: R0 to R14, and for R15 the address of the executing instruction (R38, parameter PC_READ). -/
def State.readReg (s : State) (r : Reg) : Word :=
  if h : r.toNat < 15 then s.regs[r.toNat]
  else
    match params.pcRead with
    | .ownAddress => s.pc
    | .nextAddress => s.pc + 1

/-- x[r] <- v: a write of R15 sets the active program counter (R39). After `advance` it replaces the increment. -/
def State.writeReg (s : State) (r : Reg) (v : Word) : State :=
  if h : r.toNat < 15 then { s with regs := s.regs.set r.toNat v } else s.setPc v

/-- x[rd] <- p[31:16]; x[rd+1] <- p[15:0] (R34, R171, R173). -/
def State.writePair (s : State) (rd : Reg) (p : DWord) : State :=
  (s.writeReg rd (p.extractLsb' 16 16)).writeReg (rd + 1) (p.extractLsb' 0 16)

/-- { x[rd], x[rd+1] }, the high word in rd (R34, R173). -/
def State.readPair (s : State) (rd : Reg) : DWord :=
  s.readReg rd ++ s.readReg (rd + 1)

/-! ### Segment registers and address formation (10_state.md R50, 20_memory.md R72) -/

/-- SEG[s]. -/
def State.segOf (s : State) : Seg → Word
  | .cs => s.cs
  | .ds => s.ds
  | .ss => s.ss
  | .es => s.es

/-- What a unit of a segment register is worth in words (R72, parameter SEG_WIDTH). -/
def segmentScale : Nat :=
  match params.segWidth with
  | .bits16Shift4 => 16
  | .bits4Shift16 => 2 ^ 16

/-- What a segment register keeps of a value: all 16 bits by default (R224, parameter SEG_WIDTH). -/
def heldBySegment (v : Word) : Word :=
  match params.segWidth with
  | .bits16Shift4 => v
  | .bits4Shift16 => v &&& 0xF

/-- SEG[s] <- v. -/
def State.setSeg (s : State) (seg : Seg) (v : Word) : State :=
  match seg with
  | .cs => { s with cs := heldBySegment v }
  | .ds => { s with ds := heldBySegment v }
  | .ss => { s with ss := heldBySegment v }
  | .es => { s with es := heldBySegment v }

/-- (SEG * 16 + ea) mod 2^20 (R72, D2; parameter SEG_WIDTH). -/
def physOf (seg ea : Word) : PhysAddr :=
  match params.segWidth with
  | .bits16Shift4 => (seg.setWidth 20 <<< 4) + ea.setWidth 20
  | .bits4Shift16 => (seg.setWidth 20 <<< 16) + ea.setWidth 20

/-- phys(s, ea) of R10. -/
def State.phys (s : State) (seg : Seg) (ea : Word) : PhysAddr :=
  physOf (s.segOf seg) ea

/-- MemWrite through a physical address. -/
def State.store (s : State) (pa : PhysAddr) (v : Word) : State :=
  { s with mem := s.mem.writeWord pa v }

/-- The address formed from `seg` and `ea` has no defined behaviour (parameter PA_WRAP); by default it wraps. -/
def paOverflows (seg ea : Word) : Bool :=
  match params.paWrap with
  | .modulo => false
  | .fault => decide (2 ^ 20 ≤ seg.toNat * segmentScale + ea.toNat)

/-- The sum of a base and an offset has no defined behaviour (parameter EA_WRAP); by default it wraps. -/
def eaOverflows (base offset : Word) : Bool :=
  match params.eaWrap with
  | .modulo => false
  | .fault => decide (2 ^ 16 ≤ base.toNat + offset.toNat)

/-- A + 1 has no defined behaviour (parameter PC_WRAP); by default it wraps (R40). -/
def pcOverflows (a : Word) : Bool :=
  match params.pcWrap with
  | .modulo => false
  | .fault => decide (a = 0xFFFF)

/-! ### The status word (10_state.md R42, R43) -/

/-- I as view `v` sees it: one bit for both (R43, R46, parameter PSW_BANKING). -/
def State.iOf (s : State) (v : View) : Bool :=
  match params.pswBanking with
  | .iCommon => s.iBit
  | .iPerView =>
    match v with
    | .normal => s.iBit
    | .shadow => s.latches.iShadow

/-- I of view `v` <- b (R43, R46, parameter PSW_BANKING). -/
def State.setIOf (s : State) (v : View) (b : Bool) : State :=
  match params.pswBanking with
  | .iCommon => { s with iBit := b }
  | .iPerView =>
    match v with
    | .normal => { s with iBit := b }
    | .shadow => { s with latches := { s.latches with iShadow := b } }

/-- psw(v) = { 00000000, U7, U6, I, S, C, V, Z, N }: the bank of view `v`, the single I and S (R43). -/
def State.psw (s : State) (v : View) : Word :=
  let f := s.flagsOf v
  pack [⟨8, 0⟩, ⟨1, BitVec.ofBool f.u7⟩, ⟨1, BitVec.ofBool f.u6⟩, ⟨1, BitVec.ofBool (s.iOf v)⟩, ⟨1, BitVec.ofBool s.sBit⟩,
    ⟨1, BitVec.ofBool f.c⟩, ⟨1, BitVec.ofBool f.v⟩, ⟨1, BitVec.ofBool f.z⟩, ⟨1, BitVec.ofBool f.n⟩]

/-- The bank that PSW bits 7:6 and 3:0 of `p` describe (R43). -/
def FlagBank.ofByte (p : Byte) : FlagBank where
  n := p.getLsbD 0
  z := p.getLsbD 1
  v := p.getLsbD 2
  c := p.getLsbD 3
  u6 := p.getLsbD 6
  u7 := p.getLsbD 7

/-- The six assignments of R220: bits 7:6 and 3:0 to bank `v`, bit 5 to I, bit 4 to S. -/
def State.writePswLow (s : State) (v : View) (p : Byte) : State :=
  { (s.setFlagsOf v (FlagBank.ofByte p)).setIOf v (p.getLsbD 5) with sBit := p.getLsbD 4 }

/-! ### Trap entry and return (60_exceptions.md R270 to R278) -/

/-- The content M §8.1 gives vector word `k`: 0x0100 * (k + 1) (R81, R260). -/
def vectorTableWord (k : Nat) : Word :=
  BitVec.ofNat 16 (0x0100 * (k + 1))

/-- The three readings of the vector table that R271 names: the word at physical word k (no segment applied), the fixed entry 0x0100 * (k + 1), the address k itself. -/
def Memory.vectorUnder (mode : VectorMode) (m : Memory) (k : Nat) : Option Word :=
  match mode with
  | .pointerTable => m.readWord (BitVec.ofNat 20 k)
  | .fixedEntry => some (vectorTableWord k)
  | .jumpTable => some (BitVec.ofNat 16 k)

/-- vector(k) (R271, parameter VECTOR_MODE). -/
def Memory.vector (m : Memory) (k : Nat) : Option Word :=
  m.vectorUnder params.vectorMode k

/-- The old CS is lost; the repair that R276 names latches it (parameter CS_RESTORE). -/
def State.latchCs (s : State) : State :=
  match params.csRestore with
  | .no => s
  | .yes => { s with latches := { s.latches with savedCs := s.cs } }

/-- CS stays; the repair that R276 names gives the latched one back (parameter CS_RESTORE). -/
def State.restoreCs (s : State) : State :=
  match params.csRestore with
  | .no => s
  | .yes => { s with cs := s.latches.savedCs }

/-- The four assignments of R270. Applied as they stand when S is already 1 (R278). -/
def State.trapTo (s : State) (target : Word) : State :=
  { s.latchCs.setIOf .shadow false with sBit := true, pcShadow := target, cs := 0 }

/-- A trap is refused in this state (R278, parameter NESTED_TRAP); by default none is. -/
def State.trapRefused (s : State) : Bool :=
  match params.nestedTrap with
  | .overwrite => false
  | .refuse => s.sBit

/-- enter_trap(k) of R270. The program counter of the running view already holds the resume address. A vector word that nothing defined stops with Unspecified (R302), under EXC_VECTOR3 = on_fault too, where the spec does not say: DESIGN CHOICE (log 20). -/
def enterTrap (k : Nat) (s : State) : Result State :=
  if s.trapRefused then .fault (.nestedTrap k)
  else
    match s.mem.vector k with
    | some target => .next (s.trapTo target)
    | none => .fault (.unspecified (BitVec.ofNat 20 k))

/-- The return from a trap: S <- 0, I <- 1, nothing copied, CS not restored (R274 to R276). -/
def State.returnFromTrap (s : State) : State :=
  { s.restoreCs.setIOf .normal true with sBit := false }

/-- `raise` of R10: the model stops with the fault. Under EXC_VECTOR3 = on_fault (marked assumed, R262) it enters vector 3, the next instruction's address left in the running view. -/
def raise (f : Fault) (s : State) : Result State :=
  match params.excVector3 with
  | .never => .fault f
  | .onFault => enterTrap 3 s.advance

/-- A division by zero (R174, parameter DIV_ZERO). -/
def raiseDivZero (s : State) : Result State :=
  match params.divZero with
  | .fault => raise .divideByZero s
  | .enterTrap3 => enterTrap 3 s.advance

/-- Goes on after `advance`; `pcWritten` says that the instruction writes the program counter itself, so that A + 1 is not formed (R37, R39, parameter PC_WRAP). -/
def State.advancing (s : State) (pcWritten : Bool) (andThen : State → Result State) : Result State :=
  if pcOverflows s.pc && !pcWritten then raise (.pcWrap s.pc) s else andThen s.advance

/-- A reserved word (R114, parameter RESERVED_POLICY). -/
def raiseReserved (w : Word) (s : State) : Result State :=
  match params.reservedPolicy with
  | .fault => raise (.reserved w) s
  | .enterTrap3 => enterTrap 3 s.advance
  | .nop => s.advancing false .next

/-- Goes on with base + offset modulo 2^16 (R73, R150, R210, parameter EA_WRAP). -/
def State.withSum (s : State) (base offset : Word) (andThen : Word → Result State) : Result State :=
  if eaOverflows base offset then raise (.eaWrap base) s else andThen (base + offset)

/-- Goes on with phys(seg, ea) (R72, parameter PA_WRAP). -/
def State.access (s : State) (seg : Seg) (ea : Word) (andThen : PhysAddr → Result State) : Result State :=
  if paOverflows (s.segOf seg) ea then raise (.paWrap (s.segOf seg) ea) s else andThen (s.phys seg ea)

/-- Goes on where a store may write the physical word: everywhere, unless the memory map leaves it out (R80, parameter MEM_MAP). -/
def State.storable (s : State) (pa : PhysAddr) (andThen : Result State) : Result State :=
  match params.memMap pa with
  | .readWrite => andThen
  | .unpopulated => raise (.unspecified pa) s

/-- Reads the word at a physical address and goes on with it; a word never defined raises Unspecified (R302). -/
def State.load (s : State) (pa : PhysAddr) (andThen : Word → Result State) : Result State :=
  match s.mem.readWord pa with
  | some v => andThen v
  | none => raise (.unspecified pa) s

/-- The reset event (R300, parameter RESET_VIEW): the registers take their reset values, the program counter of the normal view vector(0). Memory and the input schedule are kept; what R300 leaves unspecified is as in `State.reset`. DESIGN CHOICE (log 5), unsafe. A vector word that nothing defined stops with Unspecified, under EXC_VECTOR3 = on_fault too, where the spec does not say: DESIGN CHOICE (log 20). -/
def takeReset (s : State) : Result State :=
  let start : State := { State.reset with mem := s.mem, inputs := s.inputs }
  match params.resetView with
  | .normal =>
    match s.mem.vector 0 with
    | some target => .next { start with pcNormal := target }
    | none => .fault (.unspecified 0)
  | .shadow => enterTrap 0 { start with pcNormal := 0 }

end Sys2Proof.Machine
end

