-- ==== Sys2Proof/Machine/Flags.lean ====
section
/-! DEFINITION. Every flag computation of the spec: N and Z (42_alu.md R161), C and V of ADD and SUB (R162, R163), the 32-bit flags of MUL and DIV (R171, R173), C of the shifts (43_shift.md R183). A flag a definition does not name is as `FlagBank.kept` leaves it (10_state.md R44, D10). -/

namespace Sys2Proof.Machine

/-- N <- r[15]; Z <- (r = 0) (R161). -/
def FlagBank.setNZ (f : FlagBank) (r : Word) : FlagBank :=
  { f.kept with n := r.getLsbD 15, z := decide (r = 0) }

/-- N <- p[31]; Z <- (p = 0), for a 32-bit result (R171, R173). -/
def FlagBank.setNZ32 (f : FlagBank) (p : DWord) : FlagBank :=
  { f.kept with n := p.getLsbD 31, z := decide (p = 0) }

/-- The 17-bit unsigned sum t of R162. -/
def sum17 (a b : Word) : BitVec 17 :=
  a.setWidth 17 + b.setWidth 17

/-- C <- t[16], the carry out of bit 15 (R162). -/
def addCarry (a b : Word) : Bool :=
  (sum17 a b).getLsbD 16

/-- V <- (a[15] = b[15]) and (r[15] ≠ a[15]) with r = a + b (R162). -/
def addOverflow (a b : Word) : Bool :=
  a.getLsbD 15 == b.getLsbD 15 && (a + b).getLsbD 15 != a.getLsbD 15

/-- C of SUB: the borrow, a < b unsigned (R163, parameter SUB_CARRY). -/
def subCarry (a b : Word) : Bool :=
  match params.subCarry with
  | .borrow => decide (a < b)
  | .notBorrow => decide (b ≤ a)

/-- V <- (a[15] ≠ b[15]) and (r[15] ≠ a[15]) with r = a - b (R163). -/
def subOverflow (a b : Word) : Bool :=
  a.getLsbD 15 != b.getLsbD 15 && (a - b).getLsbD 15 != a.getLsbD 15

/-- The four flags of ADD (R162). -/
def FlagBank.afterAdd (f : FlagBank) (a b : Word) : FlagBank :=
  { f.setNZ (a + b) with c := addCarry a b, v := addOverflow a b }

/-- The four flags of SUB (R163). -/
def FlagBank.afterSub (f : FlagBank) (a b : Word) : FlagBank :=
  { f.setNZ (a - b) with c := subCarry a b, v := subOverflow a b }

/-- C of a left shift by `n`: bit 16 - n of the value shifted, unchanged for n = 0 (R183, parameter SHIFT_CARRY_OUT; its value `cleared` at n = 0: log 19). -/
def leftCarry (f : FlagBank) (x : Word) (n : Nat) : Bool :=
  match params.shiftCarryOut with
  | .lastBitOut => if n = 0 then f.c else x.getLsbD (16 - n)
  | .unchanged => f.c
  | .cleared => false

/-- C of a right shift or rotate by `n`: bit n - 1 of the value shifted, unchanged for n = 0 (R183, parameter SHIFT_CARRY_OUT; its value `cleared` at n = 0: log 19). -/
def rightCarry (f : FlagBank) (x : Word) (n : Nat) : Bool :=
  match params.shiftCarryOut with
  | .lastBitOut => if n = 0 then f.c else x.getLsbD (n - 1)
  | .unchanged => f.c
  | .cleared => false

/-- The three flags of a shift with result `r` and carry out `c` (R183). -/
def FlagBank.afterShift (f : FlagBank) (r : Word) (c : Bool) : FlagBank :=
  { f.setNZ r with c := c }

end Sys2Proof.Machine
end

