-- ==== Sys2Proof/Machine/Operands.lean ====
section
/-! DEFINITION. Every operand form: immediates (30_encoding.md R106), the right operand of the ALU format (42_alu.md R160), the address of LD and ST (41_load_store.md R150), the target of a jump (44_jump.md R201), the register pair of MUL and DIV (42_alu.md R172), and the values a shift puts in place (43_shift.md R181, R182). -/

namespace Sys2Proof.Machine

/-- zext_N of R10. -/
def zext {n : Nat} (v : BitVec n) : Word :=
  v.setWidth 16

/-- sext_N of R10. -/
def sext {n : Nat} (v : BitVec n) : Word :=
  v.signExtend 16

/-- LDI's immediate as a word (R106, R140, parameter LDI_EXT). -/
def ldiValue (imm : BitVec 15) : Word :=
  match params.ldiExt with
  | .zero => zext imm
  | .sign => sext imm

/-- b <- x[Rs] if i = 0, zext_4(imm4) if i = 1 (R160). -/
def State.operand (s : State) : Operand → Word
  | .reg rs => s.readReg rs
  | .imm v => zext v

/-- ea <- (x[Base] + zext_2(offset2)) mod 2^16 (R150). -/
def State.effectiveAddr (s : State) (base : Reg) (offset : BitVec 2) : Word :=
  s.readReg base + zext offset

/-- pa <- phys(Seg, ea) (R150). -/
def State.dataAddr (s : State) (seg : Seg) (base : Reg) (offset : BitVec 2) : PhysAddr :=
  s.phys seg (s.effectiveAddr base offset)

/-- Goes on with the physical address an LD or ST forms (R150). -/
def State.withDataAddr (s : State) (seg : Seg) (base : Reg) (offset : BitVec 2) (andThen : PhysAddr → Result State) :
    Result State :=
  s.withSum (s.readReg base) (zext offset) fun ea => s.access seg ea andThen

/-- The physical address is that of one of the next two words of the instruction stream, phys(CS, A + 1) or phys(CS, A + 2) (R86, parameter IFETCH_COHERENCE). -/
def State.storeHazard (s : State) (pa : PhysAddr) : Bool :=
  match params.ifetchCoherence with
  | .refuseWindow2 => decide (pa = s.phys .cs (s.pc + 1)) || decide (pa = s.phys .cs (s.pc + 2))
  | .alwaysCoherent => false

/-- The target of the jump types 000 to 110 executed at A (R201, parameter JMP_TARGET). -/
def jumpTarget (a : Word) (target : BitVec 8) : Word :=
  match params.jmpTarget with
  | .relASigned => a + sext target
  | .relNextSigned => a + 1 + sext target
  | .absoluteLow8 => zext target

/-- The jump target lies outside 0 to 0xFFFF and has no defined behaviour (parameter PC_WRAP); by default it wraps (R201). -/
def targetOverflows (a : Word) (target : BitVec 8) : Bool :=
  match params.pcWrap with
  | .modulo => false
  | .fault =>
    match params.jmpTarget with
    | .relASigned => decide ((a.toNat : Int) + target.toInt < 0 ∨ 2 ^ 16 ≤ (a.toNat : Int) + target.toInt)
    | .relNextSigned => decide ((a.toNat : Int) + 1 + target.toInt < 0 ∨ 2 ^ 16 ≤ (a.toNat : Int) + 1 + target.toInt)
    | .absoluteLow8 => false

/-- The even register of the pair a MUL or DIV names, or none where an odd Rd has no defined behaviour (R172, parameter ODD_PAIR). -/
def pairBase (rd : Reg) : Option Reg :=
  if rd.isEven then some rd
  else
    match params.oddPair with
    | .fault => none
    | .usePair => some rd
    | .clearBit0 => some (rd - 1)

/-- The pair of a MUL or DIV, an odd Rd raising OddPair (R172). -/
def State.withPair (s : State) (rd : Reg) (andThen : Reg → Result State) : Result State :=
  match pairBase rd with
  | some r => andThen r
  | none => raise (.oddPair rd) s

/-- shl(x, n) = (x * 2^n) mod 2^16 (R181). -/
def shl (x : Word) (n : Nat) : Word :=
  x <<< n

/-- shr(x, n) = floor(x / 2^n) (R181). -/
def shr (x : Word) (n : Nat) : Word :=
  x >>> n

/-- sra(x, n): the top n bits copy bit 15 (R181). -/
def sra (x : Word) (n : Nat) : Word :=
  shr x n ||| (if x.getLsbD 15 then BitVec.ofNat 16 (0xFFFF - (2 ^ (16 - n) - 1)) else 0)

/-- ror(x, n) = shr(x, n) or shl(x, 16 - n) for n > 0; ror(x, 0) = x (R181). -/
def ror (x : Word) (n : Nat) : Word :=
  if n = 0 then x else shr x n ||| shl x (16 - n)

/-- The old carry at bit `k` of a word (R182). -/
def carryAt (c : Bool) (k : Nat) : Word :=
  if c then BitVec.ofNat 16 (2 ^ k) else 0

/-- What SLC makes of the shifted value: the old carry ORed into bit 0 (R182); or the 17-bit rotate of { C, x } to the left (parameter SHIFT_CARRY_IN). -/
def leftWithCarry (c : Bool) (x : Word) (n : Nat) : Word :=
  match params.shiftCarryIn with
  | .orOneBit => shl x n ||| carryAt c 0
  | .rotateThroughCarry => (((BitVec.ofBool c ++ x : BitVec 17)).rotateLeft n).setWidth 16

/-- What SRC, SAC and ROC make of the shifted value `shifted`: the old carry ORed into bit 15 (R182); or the 17-bit rotate of { C, x } to the right (parameter SHIFT_CARRY_IN). -/
def rightWithCarry (c : Bool) (x shifted : Word) (n : Nat) : Word :=
  match params.shiftCarryIn with
  | .orOneBit => shifted ||| carryAt c 15
  | .rotateThroughCarry => (((BitVec.ofBool c ++ x : BitVec 17)).rotateRight n).setWidth 16

end Sys2Proof.Machine
end

