-- ==== Sys2Proof/Machine/Cycle.lean ====
section
/-! DEFINITION. The instruction cycle around the meaning of an instruction (00_scope.md R11, 60_exceptions.md R265): the inputs sampled at the boundary, reset, the halted state, acceptance of the hardware interrupt, and the fetch. -/

namespace Sys2Proof.Machine

/-- The levels of the inputs at this boundary; both low where the schedule has ended (log 4). -/
def State.pins (s : State) : Pins :=
  match s.inputs with
  | [] => { irqLine := false, resetLine := false }
  | p :: _ => p

/-- The hardware interrupt is requested at this boundary: the level of the line, or a rising edge now or not yet taken (R53, R265, parameter IRQ_MODEL). -/
def State.requested (s : State) : Bool :=
  match params.irqModel with
  | .level => s.pins.irqLine
  | .edgeLatched => s.latches.irqPending || (s.pins.irqLine && !s.latches.irqPrev)

/-- The state after the boundary's inputs are sampled. -/
def State.sampled (s : State) : State :=
  match params.irqModel with
  | .level => { s with inputs := s.inputs.tail }
  | .edgeLatched =>
    { s with
      latches := { s.latches with irqPending := s.requested, irqPrev := s.pins.irqLine }
      inputs := s.inputs.tail }

/-- The request is taken: a level needs no acknowledge, a latched edge is forgotten (D22, parameter IRQ_MODEL). -/
def State.acknowledge (s : State) : State :=
  match params.irqModel with
  | .level => s
  | .edgeLatched => { s with latches := { s.latches with irqPending := false } }

/-- The hardware interrupt is requested and enabled (R265). -/
def State.irqTaken (s : State) : Bool :=
  s.requested && s.iOf s.view

/-- The word at phys(CS, A), none where nothing defined it (R36, R74). -/
def State.fetch (s : State) : Option Word :=
  s.mem.readWord (s.phys .cs s.pc)

/-- A boundary of the halted core: nothing happens (R252); under HLT_WAKE = irq_when_I a request enters the handler. -/
def haltedNext (irq : Bool) (s : State) : Result State :=
  match params.hltWake with
  | .resetOnly => .next s
  | .irqWhenI => if irq then enterTrap 2 { s.acknowledge with halted := false } else .next s

/-- Fetches, decodes and runs one instruction with `run`; an undefined word raises Unspecified (R11, R302). -/
def fetchAndRun (run : Instr → State → Result State) (s : State) : Result State :=
  s.access .cs s.pc fun pa => s.load pa fun w => run (decodeWord w) s

/-- One step (R11): reset overrides everything (R267), a halted core does nothing, an enabled request is taken instead of a fetch (R265), otherwise one instruction runs. -/
def cycle (run : Instr → State → Result State) (s : State) : Result State :=
  let t := s.sampled
  if s.pins.resetLine then takeReset t
  else if s.halted then haltedNext s.irqTaken t
  else if s.irqTaken then enterTrap 2 t.acknowledge
  else fetchAndRun run t

/-- The input schedule with neither reset nor an enabled request at this boundary. -/
def State.quietInputs (s : State) : List Pins :=
  match s.inputs with
  | [] => []
  | p :: rest => { irqLine := p.irqLine && !s.iOf s.view, resetLine := false } :: rest

/-- The instruction whose bits are `w` at the place the next step fetches from, the core running and no input ahead of the fetch (log 3). -/
def placeInstr (s : State) (nbits w : Nat) : State :=
  { s.acknowledge with
    mem := s.mem.writeWord (s.phys .cs s.pc) (firstWord nbits w)
    halted := false
    inputs := s.quietInputs }

end Sys2Proof.Machine
end

