-- ==== Sys2Proof/Machine/Immediate.lean ====
section
/-! DEFINITION. LDI, LSI, MOV (40_ldi_lsi_mov.md R140 to R142). No flag changes and no exception. -/

namespace Sys2Proof.Machine

/-- x[rd] <- v, the program counter A + 1 unless rd is R15 (R37, R39). The shape of every instruction that only writes one register. -/
def State.writeNext (s : State) (rd : Reg) (v : Word) : Result State :=
  s.advancing (decide (rd = Reg.r15)) fun t => .next (t.writeReg rd v)

/-- LDI: x[0] <- zext_15(imm15) (R140). -/
def execLdi (imm : BitVec 15) (s : State) : Result State :=
  s.writeNext Reg.r0 (ldiValue imm)

/-- LSI: x[Rd] <- sext_7(imm7) (R141). -/
def execLsi (rd : Reg) (imm : BitVec 7) (s : State) : Result State :=
  s.writeNext rd (sext imm)

/-- MOV: x[Rd] <- (x[Rs] + zext_2(imm2)) mod 2^16 (R142). -/
def execMov (rd rs : Reg) (imm : BitVec 2) (s : State) : Result State :=
  s.writeNext rd (s.readReg rs + zext imm)

end Sys2Proof.Machine
end

