-- ==== Sys2Proof/Machine/Bytes.lean ====
section
/-! DEFINITION. SWB and INV (46_swb_inv.md R240, R241). No flag changes. -/

namespace Sys2Proof.Machine

/-- The word with its two bytes exchanged: { t[7:0], t[15:8] } (R240). -/
def swapBytes (t : Word) : Word :=
  bits t 0 8 ++ bits t 8 8

/-- SWB (R240). -/
def execSwb (rx : Reg) (s : State) : Result State :=
  s.writeNext rx (swapBytes (s.readReg rx))

/-- INV: x[Rx] <- not x[Rx] (R241). -/
def execInv (rx : Reg) (s : State) : Result State :=
  s.writeNext rx (~~~(s.readReg rx))

end Sys2Proof.Machine
end

