-- ==== Sys2Proof/Machine/Jump.lean ====
section
/-! DEFINITION. The short jumps, JRL and LJMP (44_jump.md R200 to R210). No jump writes a flag or a general register. -/

namespace Sys2Proof.Machine

/-- Jumps to target8's target where the condition holds, else A + 1 (R201, R203). -/
def State.jumpIf (s : State) (taken : Bool) (target : BitVec 8) : Result State :=
  if taken then
    if targetOverflows s.pc target then raise (.pcWrap s.pc) s
    else s.writeNext Reg.r15 (jumpTarget s.pc target)
  else s.advancing false .next

/-- JMP, always (R202). -/
def execJmp (target : BitVec 8) (s : State) : Result State :=
  s.jumpIf true target

/-- JZ, taken when Z = 1 (R203). -/
def execJz (target : BitVec 8) (s : State) : Result State :=
  s.jumpIf s.flags.z target

/-- JNZ, taken when Z = 0 (R204). -/
def execJnz (target : BitVec 8) (s : State) : Result State :=
  s.jumpIf (!s.flags.z) target

/-- JC, taken when C = 1 (R205). -/
def execJc (target : BitVec 8) (s : State) : Result State :=
  s.jumpIf s.flags.c target

/-- JNC, taken when C = 0 (R206). -/
def execJnc (target : BitVec 8) (s : State) : Result State :=
  s.jumpIf (!s.flags.c) target

/-- JN, taken when N = 1 (R207). -/
def execJn (target : BitVec 8) (s : State) : Result State :=
  s.jumpIf s.flags.n target

/-- JNN, taken when N = 0 (R208). -/
def execJnn (target : BitVec 8) (s : State) : Result State :=
  s.jumpIf (!s.flags.n) target

/-- JRL: x[15] <- x[Rs], an absolute address in the current code segment (R209). -/
def execJrl (rs : Reg) (s : State) : Result State :=
  s.writeNext Reg.r15 (s.readReg rs)

/-- The segment of LJMP's table (R210, parameter LJMP_SEG). -/
def ljmpSegment : Seg :=
  match params.ljmpSeg with
  | .ds => .ds
  | .cs => .cs

/-- LJMP: CS and the program counter from the two words of a table, both read before either is written (R210). -/
def execLjmp (rs : Reg) (s : State) : Result State :=
  s.access ljmpSegment (s.readReg rs) fun p => s.load p fun newCs =>
    s.withSum (s.readReg rs) 1 fun ea => s.access ljmpSegment ea fun q => s.load q fun newPc =>
      s.advancing true fun t => .next ((t.writeReg Reg.r15 newPc).setSeg .cs newCs)

end Sys2Proof.Machine
end

