-- ==== Sys2Proof/Machine/LoadStore.lean ====
section
/-! DEFINITION. LD and ST (41_load_store.md R150 to R152). -/

namespace Sys2Proof.Machine

/-- LD: x[Rd] <- MemRead(phys(Seg, ea), 1) (R151). -/
def execLd (seg : Seg) (rd base : Reg) (offset : BitVec 2) (s : State) : Result State :=
  s.withDataAddr seg base offset fun pa => s.load pa fun v => s.writeNext rd v

/-- ST: MemWrite(phys(Seg, ea), 1, x[Rd]), refused where it hits one of the next two instruction words (R152, R86). -/
def execSt (seg : Seg) (rd base : Reg) (offset : BitVec 2) (s : State) : Result State :=
  s.withDataAddr seg base offset fun pa =>
    if s.storeHazard pa then raise (.fetchHazard pa) s
    else s.storable pa (s.advancing false fun t => .next (t.store pa (s.readReg rd)))

end Sys2Proof.Machine
end

