-- ==== Sys2Proof/Machine/Alu.lean ====
section
/-! DEFINITION. ADD, SUB, AND, OR, XOR, MUL, DIV (42_alu.md R160 to R174). -/

namespace Sys2Proof.Machine

/-- Ends an ALU instruction with 16-bit result `r` and flags `f`: the active bank is written whether w is 0 or 1, Rd only if w = 1 (R160, R161). -/
def State.aluNext (s : State) (rd : Reg) (w : Bool) (r : Word) (f : FlagBank) : Result State :=
  s.advancing (w && decide (rd = Reg.r15)) fun t =>
    .next (if w then (t.setFlags f).writeReg rd r else t.setFlags f)

/-- Ends a MUL or DIV with the 32-bit result `p`: N and Z of it, the pair Rd:Rd+1 only if w = 1 (R171, R173). -/
def State.pairNext (s : State) (rd : Reg) (w : Bool) (p : DWord) : Result State :=
  s.advancing (w && (decide (rd = Reg.r15) || decide (rd + 1 = Reg.r15))) fun t =>
    .next (if w then (t.setFlags (s.flags.setNZ32 p)).writePair rd p else t.setFlags (s.flags.setNZ32 p))

/-- ADD (R162). -/
def execAdd (rd : Reg) (w : Bool) (b : Operand) (s : State) : Result State :=
  s.aluNext rd w (s.readReg rd + s.operand b) (s.flags.afterAdd (s.readReg rd) (s.operand b))

/-- SUB (R163); with w = 0 the compare the manual calls CMP. -/
def execSub (rd : Reg) (w : Bool) (b : Operand) (s : State) : Result State :=
  s.aluNext rd w (s.readReg rd - s.operand b) (s.flags.afterSub (s.readReg rd) (s.operand b))

/-- A bitwise operation with result `r`: flags N and Z, V and C kept (R164 to R166). -/
def State.logicNext (s : State) (rd : Reg) (w : Bool) (r : Word) : Result State :=
  s.aluNext rd w r (s.flags.setNZ r)

/-- AND (R164); with w = 0 the test the manual calls TST. -/
def execAnd (rd : Reg) (w : Bool) (b : Operand) (s : State) : Result State :=
  s.logicNext rd w (s.readReg rd &&& s.operand b)

/-- OR (R165). -/
def execOr (rd : Reg) (w : Bool) (b : Operand) (s : State) : Result State :=
  s.logicNext rd w (s.readReg rd ||| s.operand b)

/-- XOR (R166). -/
def execXor (rd : Reg) (w : Bool) (b : Operand) (s : State) : Result State :=
  s.logicNext rd w (s.readReg rd ^^^ s.operand b)

/-- The product of R171 in the pair whose even register is `rd`. -/
def State.multiply (s : State) (rd : Reg) (w : Bool) (b : Operand) : Result State :=
  s.pairNext rd w (params.mulFn (s.readReg rd) (s.operand b))

/-- The quotient of R173 in the pair whose even register is `rd`; a zero divisor raises DivideByZero (R174). -/
def State.divide (s : State) (rd : Reg) (w : Bool) (b : Operand) : Result State :=
  if s.operand b = 0 then raiseDivZero s
  else s.pairNext rd w (params.divFn (s.readPair rd) (s.operand b))

/-- MUL (R171), OddPair on an odd Rd (R172). -/
def execMul (rd : Reg) (w : Bool) (b : Operand) (s : State) : Result State :=
  s.withPair rd fun r => s.multiply r w b

/-- DIV (R173); OddPair is checked before DivideByZero (R267). -/
def execDiv (rd : Reg) (w : Bool) (b : Operand) (s : State) : Result State :=
  s.withPair rd fun r => s.divide r w b

end Sys2Proof.Machine
end

