-- ==== Sys2Proof/Machine/Reserved.lean ====
section
/-! DEFINITION. The reserved rows of the opcode table: words without meaning in any source (30_encoding.md R114), and MUL and DIV with an odd Rd (42_alu.md R172). Each carries its word, so that the fault names it. -/

namespace Sys2Proof.Machine

/-- LD/ST with spare bit 1 (R103, R114). -/
def execReservedLdSt (low : BitVec 13) (s : State) : Result State :=
  raiseReserved (encodeWord (.reservedLdSt low)) s

/-- A MUL word with an odd Rd (R172). -/
def execReservedMulOdd (rd : Reg) (w : Bool) (b : Operand) (s : State) : Result State :=
  match params.oddPair with
  | .fault => raise (.oddPair rd) s
  | .usePair => s.multiply rd w b
  | .clearBit0 => s.multiply (rd - 1) w b

/-- A DIV word with an odd Rd (R172). -/
def execReservedDivOdd (rd : Reg) (w : Bool) (b : Operand) (s : State) : Result State :=
  match params.oddPair with
  | .fault => raise (.oddPair rd) s
  | .usePair => s.divide rd w b
  | .clearBit0 => s.divide (rd - 1) w b

/-- A jump with spare bit 1 (R103, R114). -/
def execReservedJump (low : BitVec 11) (s : State) : Result State :=
  raiseReserved (encodeWord (.reservedJump low)) s

/-- JRL with target8[7] = 1 (R209). -/
def execReservedJrl7 (low : BitVec 7) (s : State) : Result State :=
  raiseReserved (encodeWord (.reservedJrl7 low)) s

/-- JRL with target8[7:6] = 01 (R209). -/
def execReservedJrl6 (low : BitVec 6) (s : State) : Result State :=
  raiseReserved (encodeWord (.reservedJrl6 low)) s

/-- JRL with target8[7:5] = 001 (R209). -/
def execReservedJrl5 (low : BitVec 5) (s : State) : Result State :=
  raiseReserved (encodeWord (.reservedJrl5 low)) s

/-- JRL with target8[7:4] = 0001 (R209). -/
def execReservedJrl4 (low : BitVec 4) (s : State) : Result State :=
  raiseReserved (encodeWord (.reservedJrl4 low)) s

/-- Opcode 11111110, assigned to no group (R104, R114). -/
def execReservedOpcode (low : BitVec 8) (s : State) : Result State :=
  raiseReserved (encodeWord (.reservedOpcode low)) s

/-- SMV with SRC = 11 (R113, R227). -/
def execReservedSmv (dst : Reg) (s : State) : Result State :=
  raiseReserved (encodeWord (.reservedSmv dst)) s

/-- SYS op 100 to 111 (R112). -/
def execReservedSys (low : BitVec 2) (s : State) : Result State :=
  raiseReserved (encodeWord (.reservedSys low)) s

/-- Thirteen or more leading ones (R104, R114). -/
def execReservedOnes (low : BitVec 3) (s : State) : Result State :=
  raiseReserved (encodeWord (.reservedOnes low)) s

end Sys2Proof.Machine
end

