-- ==== Sys2Proof/Machine/Shift.lean ====
section
/-! DEFINITION. The eight shifts and rotates (43_shift.md R180 to R192). The carry in is read before C is written. -/

namespace Sys2Proof.Machine

/-- Ends a shift with result `r` and carry out `c`: Rd is always written, N, Z and C change, V is kept (R180, R183). -/
def State.shiftNext (s : State) (rd : Reg) (r : Word) (c : Bool) : Result State :=
  s.advancing (decide (rd = Reg.r15)) fun t => .next ((t.setFlags (s.flags.afterShift r c)).writeReg rd r)

/-- A left shift of Rd by `count` with result `r`. -/
def State.leftNext (s : State) (rd : Reg) (count : BitVec 3) (r : Word) : Result State :=
  s.shiftNext rd r (leftCarry s.flags (s.readReg rd) count.toNat)

/-- A right shift or rotate of Rd by `count` with result `r`. -/
def State.rightNext (s : State) (rd : Reg) (count : BitVec 3) (r : Word) : Result State :=
  s.shiftNext rd r (rightCarry s.flags (s.readReg rd) count.toNat)

/-- SL (R185). -/
def execSl (rd : Reg) (count : BitVec 3) (s : State) : Result State :=
  s.leftNext rd count (shl (s.readReg rd) count.toNat)

/-- SLC (R186). -/
def execSlc (rd : Reg) (count : BitVec 3) (s : State) : Result State :=
  s.leftNext rd count (leftWithCarry s.flags.c (s.readReg rd) count.toNat)

/-- SR (R187). -/
def execSr (rd : Reg) (count : BitVec 3) (s : State) : Result State :=
  s.rightNext rd count (shr (s.readReg rd) count.toNat)

/-- SRC (R188). -/
def execSrc (rd : Reg) (count : BitVec 3) (s : State) : Result State :=
  s.rightNext rd count (rightWithCarry s.flags.c (s.readReg rd) (shr (s.readReg rd) count.toNat) count.toNat)

/-- SRA (R189). -/
def execSra (rd : Reg) (count : BitVec 3) (s : State) : Result State :=
  s.rightNext rd count (sra (s.readReg rd) count.toNat)

/-- SAC (R190). -/
def execSac (rd : Reg) (count : BitVec 3) (s : State) : Result State :=
  s.rightNext rd count (rightWithCarry s.flags.c (s.readReg rd) (sra (s.readReg rd) count.toNat) count.toNat)

/-- ROR (R191). -/
def execRor (rd : Reg) (count : BitVec 3) (s : State) : Result State :=
  s.rightNext rd count (ror (s.readReg rd) count.toNat)

/-- ROC (R192). -/
def execRoc (rd : Reg) (count : BitVec 3) (s : State) : Result State :=
  s.rightNext rd count (rightWithCarry s.flags.c (s.readReg rd) (ror (s.readReg rd) count.toNat) count.toNat)

end Sys2Proof.Machine
end

