-- ==== Sys2Proof/Machine/Status.lean ====
section
/-! DEFINITION. SET, CLR, MVS, SMV (45_psw_segment_special.md R220 to R227). -/

namespace Sys2Proof.Machine

/-- A SET or CLR with this mask is refused (R222, parameter SETCLR_S); by default none is. -/
def maskRefused (mask : BitVec 8) : Bool :=
  match params.setClrS with
  | .switchView => false
  | .refuse => mask.getLsbD 4

/-- The program counter of the view that executes advances first; then bits 7:0 of its status word become `p`, S last (R11, R220, R222). -/
def State.statusNext (s : State) (mask : BitVec 8) (p : Byte) : Result State :=
  if maskRefused mask then raise (.viewSwitch mask) s
  else s.advancing false fun t => .next (t.writePswLow s.view p)

/-- SET: p <- psw(v)[7:0] or bitmask8 (R220). -/
def execSet (mask : BitVec 8) (s : State) : Result State :=
  s.statusNext mask (bits (s.psw s.view) 0 8 ||| mask)

/-- CLR: p <- psw(v)[7:0] and not bitmask8 (R221). -/
def execClr (mask : BitVec 8) (s : State) : Result State :=
  s.statusNext mask (bits (s.psw s.view) 0 8 &&& ~~~mask)

/-- MVS, D = 0: x[Rd] <- SEG[Seg] (R223). -/
def execMvsFromSeg (rd : Reg) (seg : Seg) (s : State) : Result State :=
  s.writeNext rd (s.segOf seg)

/-- An MVS to this segment register is refused (R224, parameter MVS_CS); by default none is. -/
def moveRefused (seg : Seg) : Bool :=
  match params.mvsCs with
  | .immediate => false
  | .refuse => decide (seg = .cs)

/-- MVS, D = 1: SEG[Seg] <- x[Rd]; to CS it takes effect at the next fetch (R224, D38). -/
def execMvsToSeg (rd : Reg) (seg : Seg) (s : State) : Result State :=
  if moveRefused seg then raise .codeSegmentMove s
  else s.advancing false fun t => .next (t.setSeg seg (s.readReg rd))

/-- SMV, SRC = 00: x[DST] <- PCv[1 - v] (R227). -/
def execSmvInactivePc (dst : Reg) (s : State) : Result State :=
  s.writeNext dst (s.pcOf s.view.other)

/-- SMV, SRC = 01: x[DST] <- psw(1) (R227). -/
def execSmvShadowPsw (dst : Reg) (s : State) : Result State :=
  s.writeNext dst (s.psw .shadow)

/-- SMV, SRC = 10: x[DST] <- psw(0) (R227). -/
def execSmvNormalPsw (dst : Reg) (s : State) : Result State :=
  s.writeNext dst (s.psw .normal)

end Sys2Proof.Machine
end

