-- ==== Sys2Proof/Machine/System.lean ====
section
/-! DEFINITION. NOP, HLT, SWI, RETI (47_system.md R250 to R254). -/

namespace Sys2Proof.Machine

/-- NOP: the program counter becomes A + 1 (R250). -/
def execNop (s : State) : Result State :=
  s.advancing false .next

/-- HLT: the program counter becomes A + 1, halted <- 1 (R251). -/
def execHlt (s : State) : Result State :=
  s.advancing false fun t => .next { t with halted := true }

/-- SWI: the running view holds the address after the SWI, then trap entry through vector 1, whatever I is (R253, R266). -/
def execSwi (s : State) : Result State :=
  s.advancing false (enterTrap 1)

/-- RETI: the view that executed it holds A + 1, then S <- 0 and I <- 1 (R254). -/
def execReti (s : State) : Result State :=
  s.advancing false fun t => .next t.returnFromTrap

end Sys2Proof.Machine
end

