-- ==== Sys2Proof/Machine/Dispatch.lean ====
section
/-! DEFINITION. One arm per row of spec/opcode_table.json. -/

namespace Sys2Proof.Machine

/-- The effect of one instruction, fetched at the active program counter. -/
def exec (i : Instr) (s : State) : Host.Outcome State Fault Refusal :=
  match i with
  | .ldi imm => Sys2Proof.Machine.execLdi imm s
  | .ld seg rd base offset => Sys2Proof.Machine.execLd seg rd base offset s
  | .st seg rd base offset => Sys2Proof.Machine.execSt seg rd base offset s
  | .add rd w b => Sys2Proof.Machine.execAdd rd w b s
  | .sub rd w b => Sys2Proof.Machine.execSub rd w b s
  | .and rd w b => Sys2Proof.Machine.execAnd rd w b s
  | .or rd w b => Sys2Proof.Machine.execOr rd w b s
  | .xor rd w b => Sys2Proof.Machine.execXor rd w b s
  | .mul rd w b => Sys2Proof.Machine.execMul rd w b s
  | .div rd w b => Sys2Proof.Machine.execDiv rd w b s
  | .sl rd count => Sys2Proof.Machine.execSl rd count s
  | .sr rd count => Sys2Proof.Machine.execSr rd count s
  | .sra rd count => Sys2Proof.Machine.execSra rd count s
  | .ror rd count => Sys2Proof.Machine.execRor rd count s
  | .slc rd count => Sys2Proof.Machine.execSlc rd count s
  | .src rd count => Sys2Proof.Machine.execSrc rd count s
  | .sac rd count => Sys2Proof.Machine.execSac rd count s
  | .roc rd count => Sys2Proof.Machine.execRoc rd count s
  | .jmp target => Sys2Proof.Machine.execJmp target s
  | .jz target => Sys2Proof.Machine.execJz target s
  | .jnz target => Sys2Proof.Machine.execJnz target s
  | .jc target => Sys2Proof.Machine.execJc target s
  | .jnc target => Sys2Proof.Machine.execJnc target s
  | .jn target => Sys2Proof.Machine.execJn target s
  | .jnn target => Sys2Proof.Machine.execJnn target s
  | .jrl rs => Sys2Proof.Machine.execJrl rs s
  | .lsi rd imm => Sys2Proof.Machine.execLsi rd imm s
  | .mov rd rs imm => Sys2Proof.Machine.execMov rd rs imm s
  | .clr mask => Sys2Proof.Machine.execClr mask s
  | .set mask => Sys2Proof.Machine.execSet mask s
  | .mvsFromSeg rd seg => Sys2Proof.Machine.execMvsFromSeg rd seg s
  | .mvsToSeg rd seg => Sys2Proof.Machine.execMvsToSeg rd seg s
  | .smvInactivePc dst => Sys2Proof.Machine.execSmvInactivePc dst s
  | .smvShadowPsw dst => Sys2Proof.Machine.execSmvShadowPsw dst s
  | .smvNormalPsw dst => Sys2Proof.Machine.execSmvNormalPsw dst s
  | .swb rx => Sys2Proof.Machine.execSwb rx s
  | .inv rx => Sys2Proof.Machine.execInv rx s
  | .ljmp rs => Sys2Proof.Machine.execLjmp rs s
  | .nop => Sys2Proof.Machine.execNop s
  | .hlt => Sys2Proof.Machine.execHlt s
  | .swi => Sys2Proof.Machine.execSwi s
  | .reti => Sys2Proof.Machine.execReti s
  | .reservedLdSt low => Sys2Proof.Machine.execReservedLdSt low s
  | .reservedMulOdd rd w b => Sys2Proof.Machine.execReservedMulOdd rd w b s
  | .reservedDivOdd rd w b => Sys2Proof.Machine.execReservedDivOdd rd w b s
  | .reservedJump low => Sys2Proof.Machine.execReservedJump low s
  | .reservedJrl7 low => Sys2Proof.Machine.execReservedJrl7 low s
  | .reservedJrl6 low => Sys2Proof.Machine.execReservedJrl6 low s
  | .reservedJrl5 low => Sys2Proof.Machine.execReservedJrl5 low s
  | .reservedJrl4 low => Sys2Proof.Machine.execReservedJrl4 low s
  | .reservedOpcode low => Sys2Proof.Machine.execReservedOpcode low s
  | .reservedSmv dst => Sys2Proof.Machine.execReservedSmv dst s
  | .reservedSys low => Sys2Proof.Machine.execReservedSys low s
  | .reservedOnes low => Sys2Proof.Machine.execReservedOnes low s

end Sys2Proof.Machine
end

