-- ==== Sys2Proof/Machine/Step.lean ====
section
/-! DEFINITION. One step of the machine, and the placing of one instruction before it. -/

namespace Sys2Proof.Machine

/-- One step: the instruction cycle of R11 around `exec`. -/
def step (s : State) : Host.Outcome State Fault Refusal :=
  cycle exec s

/-- The state whose next step fetches and runs the instruction with bits `w` (log 3). -/
def State.withFetchWord (s : State) (nbits w : Nat) : State :=
  placeInstr s nbits w

end Sys2Proof.Machine
end

