-- ==== Sys2Proof/Safety.lean ====
section
/-! DEFINITION. The terms claims use: which states are good, what a step leaves unchanged, what it writes, and which instructions the opcode table reserves. -/

namespace Sys2Proof

/-- The instruction is one of the opcode table's reserved rows (R114, R172). -/
def Instr.isReserved : Instr → Bool
  | .ldi _ => false
  | .ld _ _ _ _ => false
  | .st _ _ _ _ => false
  | .add _ _ _ => false
  | .sub _ _ _ => false
  | .and _ _ _ => false
  | .or _ _ _ => false
  | .xor _ _ _ => false
  | .mul _ _ _ => false
  | .div _ _ _ => false
  | .sl _ _ => false
  | .sr _ _ => false
  | .sra _ _ => false
  | .ror _ _ => false
  | .slc _ _ => false
  | .src _ _ => false
  | .sac _ _ => false
  | .roc _ _ => false
  | .jmp _ => false
  | .jz _ => false
  | .jnz _ => false
  | .jc _ => false
  | .jnc _ => false
  | .jn _ => false
  | .jnn _ => false
  | .jrl _ => false
  | .lsi _ _ => false
  | .mov _ _ _ => false
  | .clr _ => false
  | .set _ => false
  | .mvsFromSeg _ _ => false
  | .mvsToSeg _ _ => false
  | .smvInactivePc _ => false
  | .smvShadowPsw _ => false
  | .smvNormalPsw _ => false
  | .swb _ => false
  | .inv _ => false
  | .ljmp _ => false
  | .nop => false
  | .hlt => false
  | .swi => false
  | .reti => false
  | .reservedLdSt _ => true
  | .reservedMulOdd _ _ _ => true
  | .reservedDivOdd _ _ _ => true
  | .reservedJump _ => true
  | .reservedJrl7 _ => true
  | .reservedJrl6 _ => true
  | .reservedJrl5 _ => true
  | .reservedJrl4 _ => true
  | .reservedOpcode _ => true
  | .reservedSmv _ => true
  | .reservedSys _ => true
  | .reservedOnes _ => true

/-- Which of N, Z, V and C an instruction may write. -/
structure FlagWrites where
  n : Bool
  z : Bool
  v : Bool
  c : Bool
  deriving DecidableEq, Repr

/-- The table of R44: "by mask" of SET and CLR counts as written. -/
def Instr.flagWrites : Instr → FlagWrites
  | .ldi _ => ⟨false, false, false, false⟩
  | .ld _ _ _ _ => ⟨false, false, false, false⟩
  | .st _ _ _ _ => ⟨false, false, false, false⟩
  | .add _ _ _ => ⟨true, true, true, true⟩
  | .sub _ _ _ => ⟨true, true, true, true⟩
  | .and _ _ _ => ⟨true, true, false, false⟩
  | .or _ _ _ => ⟨true, true, false, false⟩
  | .xor _ _ _ => ⟨true, true, false, false⟩
  | .mul _ _ _ => ⟨true, true, false, false⟩
  | .div _ _ _ => ⟨true, true, false, false⟩
  | .sl _ _ => ⟨true, true, false, true⟩
  | .sr _ _ => ⟨true, true, false, true⟩
  | .sra _ _ => ⟨true, true, false, true⟩
  | .ror _ _ => ⟨true, true, false, true⟩
  | .slc _ _ => ⟨true, true, false, true⟩
  | .src _ _ => ⟨true, true, false, true⟩
  | .sac _ _ => ⟨true, true, false, true⟩
  | .roc _ _ => ⟨true, true, false, true⟩
  | .jmp _ => ⟨false, false, false, false⟩
  | .jz _ => ⟨false, false, false, false⟩
  | .jnz _ => ⟨false, false, false, false⟩
  | .jc _ => ⟨false, false, false, false⟩
  | .jnc _ => ⟨false, false, false, false⟩
  | .jn _ => ⟨false, false, false, false⟩
  | .jnn _ => ⟨false, false, false, false⟩
  | .jrl _ => ⟨false, false, false, false⟩
  | .lsi _ _ => ⟨false, false, false, false⟩
  | .mov _ _ _ => ⟨false, false, false, false⟩
  | .clr _ => ⟨true, true, true, true⟩
  | .set _ => ⟨true, true, true, true⟩
  | .mvsFromSeg _ _ => ⟨false, false, false, false⟩
  | .mvsToSeg _ _ => ⟨false, false, false, false⟩
  | .smvInactivePc _ => ⟨false, false, false, false⟩
  | .smvShadowPsw _ => ⟨false, false, false, false⟩
  | .smvNormalPsw _ => ⟨false, false, false, false⟩
  | .swb _ => ⟨false, false, false, false⟩
  | .inv _ => ⟨false, false, false, false⟩
  | .ljmp _ => ⟨false, false, false, false⟩
  | .nop => ⟨false, false, false, false⟩
  | .hlt => ⟨false, false, false, false⟩
  | .swi => ⟨false, false, false, false⟩
  | .reti => ⟨false, false, false, false⟩
  | .reservedLdSt _ => ⟨false, false, false, false⟩
  | .reservedMulOdd _ _ _ => ⟨false, false, false, false⟩
  | .reservedDivOdd _ _ _ => ⟨false, false, false, false⟩
  | .reservedJump _ => ⟨false, false, false, false⟩
  | .reservedJrl7 _ => ⟨false, false, false, false⟩
  | .reservedJrl6 _ => ⟨false, false, false, false⟩
  | .reservedJrl5 _ => ⟨false, false, false, false⟩
  | .reservedJrl4 _ => ⟨false, false, false, false⟩
  | .reservedOpcode _ => ⟨false, false, false, false⟩
  | .reservedSmv _ => ⟨false, false, false, false⟩
  | .reservedSys _ => ⟨false, false, false, false⟩
  | .reservedOnes _ => ⟨false, false, false, false⟩

end Sys2Proof

namespace Sys2Proof.Machine

/-- A good state: its memory is in canonical form. -/
def State.Good (s : State) : Prop :=
  s.mem.wf = true

/-- A boundary at which the core fetches and runs an instruction: not halted, no reset, no enabled interrupt request (R11, R265). -/
def State.QuietBoundary (s : State) : Prop :=
  s.halted = false ∧ s.pins.resetLine = false ∧ (s.pins.irqLine = false ∨ s.iBit = false)

/-- A safe run of `k` steps: no fault and no refusal on the way. -/
def SafeFor (k : Nat) (s : State) : Prop :=
  ∃ t, Host.Core.run Sys2Proof.core k s = .next t

/-! ### What is unchanged from `s` to `t` -/

/-- R0 to R14. -/
def RegsKept (s t : State) : Prop :=
  t.regs = s.regs

/-- Both flag banks (R43). -/
def FlagsKept (s t : State) : Prop :=
  t.flNormal = s.flNormal ∧ t.flShadow = s.flShadow

/-- S, I, the halted bit, what the environment will still drive, and the state of parameter values not in use (log 8). -/
def ModeKept (s t : State) : Prop :=
  t.sBit = s.sBit ∧ t.iBit = s.iBit ∧ t.halted = s.halted ∧ t.inputs = s.inputs ∧ t.latches = s.latches

/-- DS, SS and ES. -/
def DataSegsKept (s t : State) : Prop :=
  t.ds = s.ds ∧ t.ss = s.ss ∧ t.es = s.es

/-- The four segment registers. -/
def SegsKept (s t : State) : Prop :=
  t.cs = s.cs ∧ DataSegsKept s t

/-- Every byte of memory, as the model reads it. -/
def MemKept (s t : State) : Prop :=
  ∀ a : Nat, t.mem.readByte a = s.mem.readByte a

/-! ### What is written from `s` to `t` by an instruction that `s`'s view fetched -/

/-- Of R0 to R14, register `rd` holds `v` and every other is unchanged; with `rd` = R15 all are unchanged. -/
def RegWritten (s t : State) (rd : Reg) (v : Word) : Prop :=
  ∀ (k : Nat) (h : k < 15), t.regs[k] = if rd.toNat = k then v else s.regs[k]

/-- The program counter of the view that ran is `a`, the inactive one is unchanged. -/
def PcBecame (s t : State) (a : Word) : Prop :=
  t.pcOf s.view = a ∧ t.pcOf s.view.other = s.pcOf s.view.other

/-- The flag bank of the view that ran is `f`, the inactive one is unchanged. -/
def FlagsBecame (s t : State) (f : FlagBank) : Prop :=
  t.flagsOf s.view = f ∧ t.flagsOf s.view.other = s.flagsOf s.view.other

/-- A + 1, or the value written where the destination is R15 (R37, R39). -/
def pcAfter (s : State) (rd : Reg) (v : Word) : Word :=
  if rd = Reg.r15 then v else s.pc + 1

/-- The whole effect of an instruction that writes register `rd` and nothing else. -/
def OnlyRegWritten (s t : State) (rd : Reg) (v : Word) : Prop :=
  RegWritten s t rd v ∧ PcBecame s t (pcAfter s rd v) ∧ FlagsKept s t ∧ ModeKept s t ∧ SegsKept s t ∧ MemKept s t

/-- The effect of an ALU or shift instruction: `v` in `rd` only if `w`, flags `f` in the active bank, nothing else. -/
def RegAndFlagsWritten (s t : State) (rd : Reg) (w : Bool) (v : Word) (f : FlagBank) : Prop :=
  (if w then RegWritten s t rd v ∧ PcBecame s t (pcAfter s rd v) else RegsKept s t ∧ PcBecame s t (s.pc + 1)) ∧
    FlagsBecame s t f ∧ ModeKept s t ∧ SegsKept s t ∧ MemKept s t

/-- Of R0 to R14, `rd` holds `hi`, `rd + 1` holds `lo`, every other is unchanged (R34); `rd` is even. -/
def PairWritten (s t : State) (rd : Reg) (hi lo : Word) : Prop :=
  ∀ (k : Nat) (h : k < 15),
    t.regs[k] = if rd.toNat = k then hi else if rd.toNat + 1 = k then lo else s.regs[k]

/-- The effect of a MUL or DIV: the pair only if `w` (with R14:R15 the low word is a jump, R171), flags `f` in the active bank, nothing else. -/
def PairAndFlagsWritten (s t : State) (rd : Reg) (w : Bool) (hi lo : Word) (f : FlagBank) : Prop :=
  (if w then PairWritten s t rd hi lo ∧ PcBecame s t (if rd = 14 then lo else s.pc + 1)
    else RegsKept s t ∧ PcBecame s t (s.pc + 1)) ∧
    FlagsBecame s t f ∧ ModeKept s t ∧ SegsKept s t ∧ MemKept s t

/-- Nothing but the program counter of the view that ran changes, and that one is `a`. -/
def OnlyPcWritten (s t : State) (a : Word) : Prop :=
  RegsKept s t ∧ PcBecame s t a ∧ FlagsKept s t ∧ ModeKept s t ∧ SegsKept s t ∧ MemKept s t

/-- The word at `pa` is `v`, and every byte outside that word is unchanged. -/
def WordStored (s t : State) (pa : PhysAddr) (v : Word) : Prop :=
  t.mem.readWord pa = some v ∧
    ∀ a : Nat, a ≠ 2 * pa.toNat → a ≠ 2 * pa.toNat + 1 → t.mem.readByte a = s.mem.readByte a

/-- The state trap entry leaves (R270): shadow view at `target`, CS = 0, I = 0; `resume` stays in the normal view if that one was interrupted. -/
def TrapEntered (s t : State) (target : Word) (resume : Word) : Prop :=
  t.sBit = true ∧ t.iBit = false ∧ t.cs = 0 ∧ t.pcShadow = target ∧
    t.pcNormal = (if s.sBit then s.pcNormal else resume) ∧
    t.halted = s.halted ∧ t.latches = s.latches ∧ RegsKept s t ∧ FlagsKept s t ∧ DataSegsKept s t ∧ MemKept s t

/-- The steps of a handler: every state stepped from has S = 1, and the reset input stays low. -/
inductive HandlerRun : State → State → Prop where
  | refl (s : State) : HandlerRun s s
  | step {s t u : State} (inIsr : s.sBit = true) (noReset : s.pins.resetLine = false) (next : step s = .next t)
      (rest : HandlerRun t u) : HandlerRun s u

/-- What makes `exec i s` stop with a fault: the `raise` list of R262, but for reads of registers that R54 leaves unspecified, which answer a value here (log 1, log 15). The last six names belong to parameter values not in use (log 7). -/
def FaultCause (i : Instr) (s : State) : Fault → Prop
  | .reserved w =>
    i.isReserved = true ∧ (∀ rd b o, i ≠ .reservedMulOdd rd b o ∧ i ≠ .reservedDivOdd rd b o) ∧ w = encodeWord i
  | .oddPair rd => ∃ w b, i = .reservedMulOdd rd w b ∨ i = .reservedDivOdd rd w b
  | .divideByZero => ∃ rd w b, i = .div rd w b ∧ s.operand b = 0
  | .fetchHazard pa =>
    ∃ seg rd base offset, i = .st seg rd base offset ∧ pa = s.dataAddr seg base offset ∧
      (pa = s.phys .cs (s.pc + 1) ∨ pa = s.phys .cs (s.pc + 2))
  | .unspecified pa =>
    s.mem.readWord pa = none ∧
      ((∃ seg rd base offset, i = .ld seg rd base offset ∧ pa = s.dataAddr seg base offset) ∨
        ∃ rs, i = .ljmp rs ∧
          (pa = s.phys .ds (s.readReg rs) ∨
            pa = s.phys .ds (s.readReg rs + 1) ∧ (s.mem.readWord (s.phys .ds (s.readReg rs))).isSome) ∨
        i = .swi ∧ pa = 1)
  | .eaWrap _ => False
  | .paWrap _ _ => False
  | .pcWrap _ => False
  | .nestedTrap _ => False
  | .viewSwitch _ => False
  | .codeSegmentMove => False

end Sys2Proof.Machine
end

