-- ==== Sys2Proof/Certificates/Slice0/Obligations.lean ====
section
/-! DEFINITION. The statements for the provers. The predicates on a state before and a state after (`OnlyRegWritten`, `RegAndFlagsWritten`, `OnlyPcWritten`, `WordStored`, `TrapEntered`, ...) are those of Sys2Proof/Safety.lean; each says the whole frame. "Model's choice" names a value or a reading that the spec marks as its own decision, with the entry of notes/assumptions/ that carries it. -/

open Sys2Proof Sys2Proof.Machine

/-! ### Encoding -/

/-- R102, R105: one word of each of the thirteen groups, written out from its format, decodes to its instruction. Model's choice (log 7): the spare bit is bit 0 (D3), JRL's register the low nibble (D7). -/
def Obligations.SampleWordsDecode : Prop :=
  decodeWord 0b0_001001000110100 = .ldi 0x1234 ∧
  decodeWord 0b10_0_01_0011_0010_01_0 = .ld .ds 3 2 1 ∧
  decodeWord 0b10_1_01_0100_0101_10_0 = .st .ds 4 5 2 ∧
  decodeWord 0b110_001_0011_0_1_1111 = .sub 3 false (.imm 15) ∧
  decodeWord 0b110_101_0010_1_0_0100 = .mul 2 true (.reg 4) ∧
  decodeWord 0b110_111_0100_1_11_001 = .roc 4 1 ∧
  decodeWord 0b1110_010_11111110_0 = .jnz 0xFE ∧
  decodeWord 0b1110_111_0000_1110_0 = .jrl 14 ∧
  decodeWord 0b11110_0101_0001111 = .lsi 5 15 ∧
  decodeWord 0b111110_1110_1111_10 = .mov 14 15 2 ∧
  decodeWord 0b1111110_1_00100000 = .set 0x20 ∧
  decodeWord 0b111111110_1_1111_11 = .mvsToSeg 15 .es ∧
  decodeWord 0b1111111110_10_0101 = .smvNormalPsw 5 ∧
  decodeWord 0b11111111110_1_0010 = .inv 2 ∧
  decodeWord 0b111111111110_0010 = .ljmp 2 ∧
  decodeWord 0b1111111111110_011 = .reti

/-- R102, R105: decoding the bytes of a well-formed instruction gives it back and leaves the bytes after it. Model's choice (log 7): D3, D7; (log 6): bits 7:0 of a word are its first byte. -/
def Obligations.DecodeEncodeAgree : Prop :=
  ∀ (i : Instr) (rest : List Byte), i.wellFormed = true → decode (encode i ++ rest) = .ok (i, rest)

/-- R100, R105: every word decodes to a well-formed instruction whose word it is. Model's choice (log 7): D3, D4, D7. -/
def Obligations.EncodeDecodeAgree : Prop :=
  ∀ w : Word, (decodeWord w).wellFormed = true ∧ encodeWord (decodeWord w) = w

/-- R110, R112: the eight shift mnemonics by C (bit 5) and T (bits 4:3), and the eight values of the SYS op field, the last four reserved. -/
def Obligations.ShiftAndSystemCodesDecode : Prop :=
  (∀ (rd : Reg) (count : BitVec 3),
    decodeWord (0b110111#6 ++ rd ++ 0#1 ++ 0b00#2 ++ count) = .sl rd count ∧
    decodeWord (0b110111#6 ++ rd ++ 1#1 ++ 0b00#2 ++ count) = .slc rd count ∧
    decodeWord (0b110111#6 ++ rd ++ 0#1 ++ 0b01#2 ++ count) = .sr rd count ∧
    decodeWord (0b110111#6 ++ rd ++ 1#1 ++ 0b01#2 ++ count) = .src rd count ∧
    decodeWord (0b110111#6 ++ rd ++ 0#1 ++ 0b10#2 ++ count) = .sra rd count ∧
    decodeWord (0b110111#6 ++ rd ++ 1#1 ++ 0b10#2 ++ count) = .sac rd count ∧
    decodeWord (0b110111#6 ++ rd ++ 0#1 ++ 0b11#2 ++ count) = .ror rd count ∧
    decodeWord (0b110111#6 ++ rd ++ 1#1 ++ 0b11#2 ++ count) = .roc rd count) ∧
  decodeWord (0b1111111111110#13 ++ 0b000#3) = .nop ∧ decodeWord (0b1111111111110#13 ++ 0b001#3) = .hlt ∧
  decodeWord (0b1111111111110#13 ++ 0b010#3) = .swi ∧ decodeWord (0b1111111111110#13 ++ 0b011#3) = .reti ∧
  ∀ op : BitVec 3, 4 ≤ op.toNat → (decodeWord (0b1111111111110#13 ++ op)).isReserved = true

/-- R114, R172: the reserved words are those of the table of R114 and no others. Model's choice (log 7): D4 and D7 make the spare bit and target8[7:4] of JRL reserved. -/
def Obligations.ReservedWordsAreThoseOfTheTable : Prop :=
  ∀ w : Word, (decodeWord w).isReserved = true ↔
    (0xFE00 ≤ w.toNat ∧ w.toNat ≤ 0xFEFF) ∨ 0xFFF8 ≤ w.toNat ∨ (0xFFF4 ≤ w.toNat ∧ w.toNat ≤ 0xFFF7) ∨
    (0xFFB0 ≤ w.toNat ∧ w.toNat ≤ 0xFFBF) ∨ (0x8000 ≤ w.toNat ∧ w.toNat ≤ 0xBFFF ∧ w.getLsbD 0 = true) ∨
    (0xE000 ≤ w.toNat ∧ w.toNat ≤ 0xEFFF ∧ w.getLsbD 0 = true) ∨
    (0xEE00 ≤ w.toNat ∧ w.toNat ≤ 0xEFFF ∧ w.extractLsb' 5 4 ≠ 0) ∨
    (0xD400 ≤ w.toNat ∧ w.toNat ≤ 0xDBFF ∧ w.getLsbD 6 = true)

/-! ### The step -/

/-- R11: where the two bytes at the program counter decode to an instruction and nothing comes before the fetch, the step is that instruction on the state whose inputs of this boundary are taken off. Model's choice (log 4): the inputs are a list in the state; (log 6): the order of the two bytes. -/
def Obligations.StepRunsDecodedInstruction : Prop :=
  ∀ (s : State) (lo hi : Byte) (i : Instr),
    s.QuietBoundary → s.mem.readByte (2 * (s.phys .cs s.pc).toNat) = some lo →
    s.mem.readByte (2 * (s.phys .cs s.pc).toNat + 1) = some hi → decode [lo, hi] = .ok (i, []) →
    step s = exec i { s with inputs := s.inputs.tail }

/-- R302: a fetch of a word that nothing defined stops with Unspecified. Model's choice (log 7): the stop (D33). -/
def Obligations.FetchOfUndefinedWordFaults : Prop :=
  ∀ s : State, s.QuietBoundary → s.mem.readWord (s.phys .cs s.pc) = none →
    step s = .fault (.unspecified (s.phys .cs s.pc))

/-- R11, R100: an instruction placed where the next step fetches is the one that step runs, in every view and segment. Model's choice (log 3): what placing it changes. -/
def Obligations.PlacedInstructionRuns : Prop :=
  ∀ (s : State) (nbits w : Nat) (i : Instr), decodeTableWord nbits w = some i →
    step (s.withFetchWord nbits w) = exec i (s.withFetchWord nbits w).sampled ∧
    (s.withFetchWord nbits w).pc = s.pc ∧ (s.withFetchWord nbits w).regs = s.regs ∧
    WordStored s (s.withFetchWord nbits w) (s.phys .cs s.pc) (BitVec.ofNat 16 (w % 2 ^ nbits))

/-- R252: while the core is halted and not reset, a step changes nothing, whatever the interrupt line and I are. Model's choice (log 7): an enabled request does not wake the core, the `reset_only` of HLT_WAKE (D23), which no source states; (log 11): such a boundary is a step to the same state; (log 4): the inputs are a list in the state. -/
def Obligations.HaltedCoreDoesNothing : Prop :=
  ∀ s : State, s.halted = true → s.pins.resetLine = false → step s = .next { s with inputs := s.inputs.tail }

/-! ### Operands, addresses, the status word -/

/-- R35: R0 to R14 exist once: what is written to one of them in either mode is read in either mode, as are the segment registers; the program counter and the flags have two views, selected by S. With it, what the register and the immediate form of an ALU operand read. What R15 reads as stands in MovAddsOffset. -/
def Obligations.OperandReads : Prop :=
  (∀ (s : State) (r : Reg) (h : r.toNat < 15), s.readReg r = s.regs[r.toNat]) ∧
  (∀ (s : State) (r : Reg) (v : Word) (inIsr : Bool), r.toNat < 15 →
    State.readReg { s.writeReg r v with sBit := inIsr } r = v) ∧
  (∀ (s : State) (inIsr : Bool) (seg : Seg), State.segOf { s with sBit := inIsr } seg = s.segOf seg) ∧
  (∀ s : State, s.pc = if s.sBit then s.pcShadow else s.pcNormal) ∧
  (∀ s : State, s.flags = if s.sBit then s.flShadow else s.flNormal) ∧
  (∀ (s : State) (r : Reg), s.operand (.reg r) = s.readReg r) ∧
  ∀ (s : State) (v : BitVec 4), (s.operand (.imm v)).toNat = v.toNat

/-- R72, R75: the physical address, and that segments one apart address windows 16 words apart. Model's choice (log 7): 16-bit segments (D1), wrap at 2^20 (D2). -/
def Obligations.PhysicalAddressFormed : Prop :=
  (∀ (s : State) (seg : Seg) (ea : Word), (s.phys seg ea).toNat = ((s.segOf seg).toNat * 16 + ea.toNat) % 2 ^ 20) ∧
  ∀ (s : State) (a b : Seg) (ea fa : Word), (s.segOf a).toNat = (s.segOf b).toNat + 1 → fa.toNat = ea.toNat + 16 →
    s.phys a ea = s.phys b fa

/-- R42: the place of each of the six bits that M names in the status word, S and I in the active one. Every bit of both status words, with the decisions that takes, stands in SmvReadsTheTwoViews. -/
def Obligations.StatusWordLayout : Prop :=
  (∀ (s : State) (v : View), (s.psw v).getLsbD 0 = (s.flagsOf v).n ∧ (s.psw v).getLsbD 1 = (s.flagsOf v).z ∧
    (s.psw v).getLsbD 2 = (s.flagsOf v).v ∧ (s.psw v).getLsbD 3 = (s.flagsOf v).c) ∧
  ∀ s : State, (s.psw s.view).getLsbD 4 = s.sBit ∧ (s.psw s.view).getLsbD 5 = s.iBit

/-! ### Reset and invariants -/

/-- R54, R301, R302: the state right after reset. CS = 0 and the 0x0100 of vector word 0 are M §8.1's; the rest is the spec's decision. Model's choice (log 7): S = 0, I = 0 and halted = 0 (D24), the program counter from the pointer table (D19), no word of memory defined (D33); (log 2): the program counter holds the 0x0100 that the boot image must put into word 0. -/
def Obligations.ResetStateValues : Prop :=
  State.reset.sBit = false ∧ State.reset.iBit = false ∧ State.reset.cs = 0 ∧ State.reset.halted = false ∧
    State.reset.pcNormal = 0x0100 ∧ ∀ pa : PhysAddr, State.reset.mem.readWord pa = none

/-- The memory after reset is in canonical form (log 6). -/
def Obligations.ResetStateIsGood : Prop :=
  State.reset.Good

/-- Every step keeps the memory's canonical form: addresses rising, all inside the 2^20 words of R70 (log 6). -/
def Obligations.StepKeepsGood : Prop :=
  ∀ s t : State, s.Good → step s = .next t → t.Good

/-- R300, R267: the reset event overrides a halted core and an interrupt request; S, I, CS and halted are cleared, the normal program counter is loaded from physical word 0; where nothing defined that word the event stops. Model's choice (log 7): D19, D24, the stop (D33); (log 5): reset is an input sampled at a boundary, and memory stays. -/
def Obligations.ResetEventEntersVectorZero : Prop :=
  ∀ s : State, s.pins.resetLine = true →
    (∀ target, s.mem.readWord 0 = some target →
      ∃ t, step s = .next t ∧ t.sBit = false ∧ t.iBit = false ∧ t.cs = 0 ∧ t.halted = false ∧ t.pcNormal = target ∧
        MemKept s t ∧ t.inputs = s.inputs.tail) ∧
    (s.mem.readWord 0 = none → step s = .fault (.unspecified 0))

/-! ### Traps -/

/-- R265, R270: an enabled request at a boundary is taken instead of the fetch and is the whole step; the interrupted view keeps the address of the instruction not yet fetched, or, where it was the shadow view (S = 1), loses it; a vector word that nothing defined stops the entry. Model's choice (log 7): the vector table holds pointers (D19), the entry's details (D20), overwriting in a handler (D21), a level input (D22), the stop (D33); (log 4): the inputs are a list in the state. -/
def Obligations.HardwareInterruptTaken : Prop :=
  ∀ s : State, s.halted = false → s.pins.resetLine = false → s.pins.irqLine = true → s.iBit = true →
    (∀ target, s.mem.readWord 2 = some target →
      ∃ t, step s = .next t ∧ TrapEntered s t target s.pc ∧ t.inputs = s.inputs.tail) ∧
    (s.mem.readWord 2 = none → step s = .fault (.unspecified 2))

/-- R46: I = 0 holds the line off; every trap entry clears I; RETI and SET with mask 0x20 alone set it, CLR with mask 0x20 alone clears it; SWI does not look at it and enters at the word of vector 1. Model's choice (log 7): one I for both views (D18), the vector table holds pointers (D19), SWI ignores I (D20), a level input (D22); (log 4): the inputs are a list in the state. -/
def Obligations.InterruptEnableBit : Prop :=
  (∀ (s : State) (p : Pins) (rest : List Pins), s.iBit = false → s.inputs = p :: rest →
    step s = step { s with inputs := { p with irqLine := false } :: rest }) ∧
  (∀ (k : Nat) (s t : State), enterTrap k s = .next t → t.iBit = false) ∧
  (∀ s : State, ∃ t, exec .reti s = .next t ∧ t.iBit = true) ∧
  (∀ s : State, ∃ t, exec (.set 0x20) s = .next t ∧ t.iBit = true ∧ t.sBit = s.sBit ∧ FlagsKept s t) ∧
  (∀ s : State, ∃ t, exec (.clr 0x20) s = .next t ∧ t.iBit = false ∧ t.sBit = s.sBit ∧ FlagsKept s t) ∧
  ∀ (s : State) (i : Bool) (target : Word), s.mem.readWord 1 = some target →
    ∃ t, exec .swi { s with iBit := i } = .next t ∧ t.sBit = true ∧ t.pcShadow = target

/-- R277: trap entry clears I, and while I = 0 in a handler no request is taken; a step of a handler can set I only by SET with mask bit 5 or by the RETI that ends it. Model's choice (log 7): one I for both views (D18), the entry (D20), a level input (D22); (log 4): the inputs are a list in the state. -/
def Obligations.HandlerIsNotInterrupted : Prop :=
  (∀ (k : Nat) (s t : State), enterTrap k s = .next t → t.sBit = true ∧ t.iBit = false) ∧
  (∀ (s : State) (p : Pins) (rest : List Pins), s.sBit = true → s.iBit = false → s.inputs = p :: rest →
    step s = step { s with inputs := { p with irqLine := false } :: rest }) ∧
  ∀ s t : State, s.sBit = true → s.iBit = false → step s = .next t → t.iBit = true →
    ∃ w, s.fetch = some w ∧ (decodeWord w = .reti ∨ ∃ mask, decodeWord w = .set mask ∧ mask.getLsbD 5 = true)

/-- R41: from normal mode the shadow program counter is written by trap entry alone, with the word of vector 1 or 2, and the shadow flags by nothing. Model's choice (log 7): D19, D20. -/
def Obligations.ShadowViewWrittenByTrapEntryOnly : Prop :=
  ∀ s t : State, s.sBit = false → s.pins.resetLine = false → step s = .next t →
    t.flShadow = s.flShadow ∧
    (t.pcShadow = s.pcShadow ∨
      t.sBit = true ∧ t.iBit = false ∧ t.cs = 0 ∧
        (s.mem.readWord 1 = some t.pcShadow ∨ s.mem.readWord 2 = some t.pcShadow))

/-- R41, R275: while S = 1 no step but reset changes the normal view's program counter or flags. -/
def Obligations.NormalViewKeptInHandler : Prop :=
  ∀ s t : State, s.sBit = true → s.pins.resetLine = false → step s = .next t →
    t.pcNormal = s.pcNormal ∧ t.flNormal = s.flNormal

/-- R253, R254, R270, R275, R276: when the handler of an SWI, whatever it ran, executes RETI, the program counter is that after the SWI and the flags are the program's, S = 0 and I = 1; CS is the handler's, not the program's. Model's choice (log 7): the resume address is that of the next instruction and CS is not restored (D20), a level input (D22); (log 4): the inputs are a list in the state. -/
def Obligations.SwiHandlerReturnsAfterSwi : Prop :=
  ∀ (s t u v : State) (w x : Word), s.sBit = false → s.QuietBoundary → s.fetch = some w → decodeWord w = .swi →
    step s = .next t → HandlerRun t u → u.sBit = true → u.QuietBoundary → u.fetch = some x → decodeWord x = .reti →
    step u = .next v →
    v.pc = s.pc + 1 ∧ v.flags = s.flags ∧ v.sBit = false ∧ v.iBit = true ∧ v.cs = u.cs ∧ v.pcShadow = u.pcShadow + 1 ∧
      v.flShadow = u.flShadow

/-- R265, R270, R275, R276: the same for the hardware interrupt, which resumes at the program counter of the instruction it came before; CS is the handler's, not the program's. Model's choice (log 7): D20, D22; (log 4): the inputs are a list in the state. -/
def Obligations.InterruptHandlerReturnsToInterrupted : Prop :=
  ∀ (s t u v : State) (x : Word), s.sBit = false → s.halted = false → s.pins.resetLine = false → s.irqTaken = true →
    step s = .next t → HandlerRun t u → u.sBit = true → u.QuietBoundary → u.fetch = some x → decodeWord x = .reti →
    step u = .next v →
    v.pc = s.pc ∧ v.flags = s.flags ∧ v.sBit = false ∧ v.iBit = true ∧ v.cs = u.cs ∧ v.pcShadow = u.pcShadow + 1 ∧
      v.flShadow = u.flShadow

/-! ### What no instruction does -/

/-- R30, R78: the only instruction that changes memory is ST, and it changes one word; no other step changes it. Model's choice (log 5): nor does a reset event, after which R54 and R300 leave memory unspecified. -/
def Obligations.OnlyStoreChangesMemory : Prop :=
  ∀ s t : State, step s = .next t → MemKept s t ∨
    ∃ w seg rd base offset, s.fetch = some w ∧ decodeWord w = .st seg rd base offset ∧
      WordStored s t (s.phys seg (s.readReg base + offset.setWidth 16)) (s.readReg rd)

/-- R50, R210, R270, R300: CS changes only by reset, trap entry (to 0), LJMP, and MVS to CS. Model's choice (log 7): D1, D20, D24, D25, D38. -/
def Obligations.CsChangedOnlyAsListed : Prop :=
  ∀ s t : State, step s = .next t → t.cs ≠ s.cs →
    t.cs = 0 ∧ (s.pins.resetLine = true ∨ s.irqTaken = true) ∨
    ∃ w, s.fetch = some w ∧
      (decodeWord w = .swi ∧ t.cs = 0 ∨
        (∃ rs, decodeWord w = .ljmp rs ∧ s.mem.readWord (s.phys .ds (s.readReg rs)) = some t.cs) ∨
        ∃ rd, decodeWord w = .mvsToSeg rd .cs ∧ t.cs = s.readReg rd)

/-- R44, R48: an instruction changes no flag of the inactive bank, none that the table of R44 does not list for it, and U6 and U7 only where it is SET or CLR. Model's choice (log 7): "unchanged" (D10). -/
def Obligations.FlagsChangeOnlyAsListed : Prop :=
  ∀ (i : Instr) (s t : State), exec i s = .next t →
    t.flagsOf s.view.other = s.flagsOf s.view.other ∧
    (i.flagWrites.n = false → (t.flagsOf s.view).n = s.flags.n) ∧
    (i.flagWrites.z = false → (t.flagsOf s.view).z = s.flags.z) ∧
    (i.flagWrites.v = false → (t.flagsOf s.view).v = s.flags.v) ∧
    (i.flagWrites.c = false → (t.flagsOf s.view).c = s.flags.c) ∧
    ((∀ mask, i ≠ .set mask ∧ i ≠ .clr mask) →
      (t.flagsOf s.view).u6 = s.flags.u6 ∧ (t.flagsOf s.view).u7 = s.flags.u7)

/-- R262: an instruction stops exactly in the cases of the `raise` table, with the name of the case (`FaultCause`), and nothing is refused. The table's row of registers unspecified after reset is not among the cases: such a register answers a value. Model's choice (log 1, log 15): that value and the shadow program counter never written; (log 7): D14, D15, D26, D27, D29, D33. -/
def Obligations.FaultsAreExactlyTheRaiseTable : Prop :=
  (∀ (i : Instr) (s : State) (f : Fault), i.wellFormed = true → (exec i s = .fault f ↔ FaultCause i s f)) ∧
  ∀ (s : State) (r : Refusal), step s ≠ .refused r

/-! ### LDI, LSI, MOV -/

/-- R140: LDI. Model's choice (log 7): zero extension (D8). Also (log 7): a flag not listed is kept (D10). -/
def Obligations.LdiLoadsImmediate : Prop :=
  ∀ (imm : BitVec 15) (s : State),
    ∃ t, exec (.ldi imm) s = .next t ∧ OnlyRegWritten s t 0 (imm.setWidth 16)

/-- R141: LSI, its encoding and effect, for every destination, R15 (a jump) included. Model's choice (log 7): a flag not listed is kept (D10); R15 is read as the instruction's own address and written as a jump (D6). -/
def Obligations.LsiLoadsSignedImmediate : Prop :=
  ∀ (rd : Reg) (imm : BitVec 7) (s : State),
    decodeWord ((0b11110 : BitVec 5) ++ rd ++ imm : BitVec 16) = .lsi rd imm ∧
    ∃ t, exec (.lsi rd imm) s = .next t ∧ OnlyRegWritten s t rd (imm.signExtend 16)

/-- R142: MOV, its encoding and effect; a carry out of bit 15 is lost. Model's choice (log 7): from R15 it reads its own address, PC_READ (D6). Also (log 7): a flag not listed is kept (D10); R15 is read as the instruction's own address and written as a jump (D6). -/
def Obligations.MovAddsOffset : Prop :=
  ∀ (rd rs : Reg) (imm : BitVec 2) (s : State),
    decodeWord ((0b111110 : BitVec 6) ++ rd ++ rs ++ imm : BitVec 16) = .mov rd rs imm ∧ s.readReg 15 = s.pc ∧
    ∃ t v, exec (.mov rd rs imm) s = .next t ∧ v.toNat = ((s.readReg rs).toNat + imm.toNat) % 2 ^ 16 ∧
      OnlyRegWritten s t rd v

/-! ### LD, ST -/

/-- R150, R151, R302: LD, and the stop on a word that nothing defined. Model's choice (log 7): D1, D2, D34, the stop (D33). Also (log 7): a flag not listed is kept (D10); R15 is read as the instruction's own address and written as a jump (D6). -/
def Obligations.LoadReadsMemory : Prop :=
  ∀ (seg : Seg) (rd base : Reg) (offset : BitVec 2) (s : State) (pa : PhysAddr),
    pa = s.phys seg (s.readReg base + offset.setWidth 16) →
    (∀ v, s.mem.readWord pa = some v →
      ∃ t, exec (.ld seg rd base offset) s = .next t ∧ OnlyRegWritten s t rd v) ∧
    (s.mem.readWord pa = none → exec (.ld seg rd base offset) s = .fault (.unspecified pa))

/-- R150, R152, R86: ST writes the one word its operands address, and is refused exactly on the next two words of the instruction stream. Model's choice (log 7): D1, D2, D29, D34. Also (log 7): a flag not listed is kept (D10); R15 is read as the instruction's own address and written as a jump (D6). -/
def Obligations.StoreWritesOneWord : Prop :=
  ∀ (seg : Seg) (rd base : Reg) (offset : BitVec 2) (s : State) (pa : PhysAddr),
    pa = s.phys seg (s.readReg base + offset.setWidth 16) →
    (pa ≠ s.phys .cs (s.pc + 1) → pa ≠ s.phys .cs (s.pc + 2) →
      ∃ t, exec (.st seg rd base offset) s = .next t ∧ WordStored s t pa (s.readReg rd) ∧ RegsKept s t ∧
        PcBecame s t (s.pc + 1) ∧ FlagsKept s t ∧ ModeKept s t ∧ SegsKept s t) ∧
    (pa = s.phys .cs (s.pc + 1) ∨ pa = s.phys .cs (s.pc + 2) →
      exec (.st seg rd base offset) s = .fault (.fetchHazard pa))

/-- R83, R75: a load after a store to the same physical word, through any segment and address, answers the stored value. Model's choice (log 7): one agent in program order (D28), D1, D2, D34. Also (log 7): a flag not listed is kept (D10); R15 is read as the instruction's own address and written as a jump (D6). -/
def Obligations.LoadAfterStore : Prop :=
  ∀ (seg seg' : Seg) (rd base rd' base' : Reg) (offset offset' : BitVec 2) (s t : State),
    exec (.st seg rd base offset) s = .next t →
    t.phys seg' (t.readReg base' + offset'.setWidth 16) = s.phys seg (s.readReg base + offset.setWidth 16) →
    ∃ u, exec (.ld seg' rd' base' offset') t = .next u ∧ OnlyRegWritten t u rd' (s.readReg rd)

/-! ### ALU -/

/-- R160, R162: ADD. Model's choice (log 9): the formulas of the flags (D9). Also (log 7): a flag not listed is kept (D10); R15 is read as the instruction's own address and written as a jump (D6). -/
def Obligations.AddResultAndFlags : Prop :=
  ∀ (rd : Reg) (w : Bool) (b : Operand) (s : State) (x y r : Word), x = s.readReg rd → y = s.operand b → r = x + y →
    ∃ t, exec (.add rd w b) s = .next t ∧ RegAndFlagsWritten s t rd w r
      { s.flags with
        n := r.getLsbD 15, z := decide (r = 0), c := decide (2 ^ 16 ≤ x.toNat + y.toNat),
        v := decide (x.getLsbD 15 = y.getLsbD 15) && decide (r.getLsbD 15 ≠ x.getLsbD 15) }

/-- R160, R163: SUB. Model's choice (log 9): the formulas of the flags (D9), C the borrow (D11). Also (log 7): a flag not listed is kept (D10); R15 is read as the instruction's own address and written as a jump (D6). -/
def Obligations.SubResultAndFlags : Prop :=
  ∀ (rd : Reg) (w : Bool) (b : Operand) (s : State) (x y r : Word), x = s.readReg rd → y = s.operand b → r = x - y →
    ∃ t, exec (.sub rd w b) s = .next t ∧ RegAndFlagsWritten s t rd w r
      { s.flags with
        n := r.getLsbD 15, z := decide (r = 0), c := decide (x.toNat < y.toNat),
        v := decide (x.getLsbD 15 ≠ y.getLsbD 15) && decide (r.getLsbD 15 ≠ x.getLsbD 15) }

/-- R175: after ADD and SUB, V says that the exact signed result does not fit 16 bits, C that the exact unsigned one does not. Model's choice (log 9): D9, D11. -/
def Obligations.OverflowAndCarryMeaning : Prop :=
  ∀ (rd : Reg) (w : Bool) (b : Operand) (s : State) (x y : Word), x = s.readReg rd → y = s.operand b →
    (∃ t, exec (.add rd w b) s = .next t ∧
      ((t.flagsOf s.view).v = true ↔ x.toInt + y.toInt < -2 ^ 15 ∨ 2 ^ 15 ≤ x.toInt + y.toInt) ∧
      ((t.flagsOf s.view).c = true ↔ 2 ^ 16 ≤ x.toNat + y.toNat)) ∧
    ∃ t, exec (.sub rd w b) s = .next t ∧
      ((t.flagsOf s.view).v = true ↔ x.toInt - y.toInt < -2 ^ 15 ∨ 2 ^ 15 ≤ x.toInt - y.toInt) ∧
      ((t.flagsOf s.view).c = true ↔ (x.toNat : Int) - y.toNat < 0)

/-- R164, R165, R166: AND, OR, XOR bit by bit; V and C are kept. Model's choice (log 9): the formulas of N and Z (D9). Also (log 7): a flag not listed is kept (D10); R15 is read as the instruction's own address and written as a jump (D6). -/
def Obligations.LogicResultsAndFlags : Prop :=
  ∀ (rd : Reg) (w : Bool) (b : Operand) (s : State) (x y : Word), x = s.readReg rd → y = s.operand b →
    (∃ t r, exec (.and rd w b) s = .next t ∧ (∀ k, r.getLsbD k = (x.getLsbD k && y.getLsbD k)) ∧
      RegAndFlagsWritten s t rd w r { s.flags with n := r.getLsbD 15, z := decide (r = 0) }) ∧
    (∃ t r, exec (.or rd w b) s = .next t ∧ (∀ k, r.getLsbD k = (x.getLsbD k || y.getLsbD k)) ∧
      RegAndFlagsWritten s t rd w r { s.flags with n := r.getLsbD 15, z := decide (r = 0) }) ∧
    ∃ t r, exec (.xor rd w b) s = .next t ∧ (∀ k, r.getLsbD k = (x.getLsbD k ^^ y.getLsbD k)) ∧
      RegAndFlagsWritten s t rd w r { s.flags with n := r.getLsbD 15, z := decide (r = 0) }

/-- R171, R172: MUL, exact in 32 bits, high word in Rd; with R14:R15 the low word is a jump; an odd Rd stops. Model's choice (log 10): unsigned (D12); (log 7): the stop on an odd Rd (D15). Also (log 7): a flag not listed is kept (D10); R15 is read as the instruction's own address and written as a jump (D6). -/
def Obligations.MulResultAndFlags : Prop :=
  ∀ (rd : Reg) (w : Bool) (b : Operand) (s : State),
    (rd.toNat % 2 = 0 → ∃ (t : State) (hi lo : Word),
      exec (.mul rd w b) s = .next t ∧
      hi.toNat * 2 ^ 16 + lo.toNat = (s.readReg rd).toNat * (s.operand b).toNat ∧
      PairAndFlagsWritten s t rd w hi lo { s.flags with n := hi.getLsbD 15, z := decide (hi = 0 ∧ lo = 0) }) ∧
    (rd.toNat % 2 = 1 → exec (.mul rd w b) s = .fault (.oddPair rd))

/-- R172, R173, R174: DIV, the exact 32-bit quotient of the pair; a zero divisor and an odd Rd stop. Model's choice (log 10): unsigned, no remainder (D13); (log 7): the stops (D14, D15). Also (log 7): a flag not listed is kept (D10); R15 is read as the instruction's own address and written as a jump (D6). -/
def Obligations.DivResultAndFlags : Prop :=
  ∀ (rd : Reg) (w : Bool) (b : Operand) (s : State),
    (rd.toNat % 2 = 0 → s.operand b ≠ 0 → ∃ (t : State) (hi lo : Word),
      exec (.div rd w b) s = .next t ∧
      hi.toNat * 2 ^ 16 + lo.toNat =
        ((s.readReg rd).toNat * 2 ^ 16 + (s.readReg (rd + 1)).toNat) / (s.operand b).toNat ∧
      PairAndFlagsWritten s t rd w hi lo { s.flags with n := hi.getLsbD 15, z := decide (hi = 0 ∧ lo = 0) }) ∧
    (rd.toNat % 2 = 0 → s.operand b = 0 → exec (.div rd w b) s = .fault .divideByZero) ∧
    (rd.toNat % 2 = 1 → exec (.div rd w b) s = .fault (.oddPair rd))

/-! ### Shifts -/

/-- R181 to R186: SL and SLC bit by bit. Model's choice (log 7): the old carry is ORed into bit 0 (D16), C is the last bit out (D17). Also (log 7): a flag not listed is kept (D10); R15 is read as the instruction's own address and written as a jump (D6). -/
def Obligations.LeftShiftResults : Prop :=
  ∀ (rd : Reg) (count : BitVec 3) (s : State) (x : Word) (n : Nat) (c : Bool), x = s.readReg rd → n = count.toNat →
    c = (if n = 0 then s.flags.c else x.getLsbD (16 - n)) →
    (∃ t r, exec (.sl rd count) s = .next t ∧ (∀ k < 16, r.getLsbD k = (decide (n ≤ k) && x.getLsbD (k - n))) ∧
      RegAndFlagsWritten s t rd true r { s.flags with n := r.getLsbD 15, z := decide (r = 0), c := c }) ∧
    ∃ t r, exec (.slc rd count) s = .next t ∧
      (∀ k < 16, r.getLsbD k = (decide (n ≤ k) && x.getLsbD (k - n) || decide (k = 0) && s.flags.c)) ∧
      RegAndFlagsWritten s t rd true r { s.flags with n := r.getLsbD 15, z := decide (r = 0), c := c }

/-- R181 to R184, R187, R188: SR and SRC bit by bit. Model's choice (log 7): the old carry is ORed into bit 15 (D16), C is the last bit out (D17). Also (log 7): a flag not listed is kept (D10); R15 is read as the instruction's own address and written as a jump (D6). -/
def Obligations.LogicalRightShiftResults : Prop :=
  ∀ (rd : Reg) (count : BitVec 3) (s : State) (x : Word) (n : Nat) (c : Bool), x = s.readReg rd → n = count.toNat →
    c = (if n = 0 then s.flags.c else x.getLsbD (n - 1)) →
    (∃ t r, exec (.sr rd count) s = .next t ∧ (∀ k < 16, r.getLsbD k = x.getLsbD (k + n)) ∧
      RegAndFlagsWritten s t rd true r { s.flags with n := r.getLsbD 15, z := decide (r = 0), c := c }) ∧
    ∃ t r, exec (.src rd count) s = .next t ∧
      (∀ k < 16, r.getLsbD k = (x.getLsbD (k + n) || decide (k = 15) && s.flags.c)) ∧
      RegAndFlagsWritten s t rd true r { s.flags with n := r.getLsbD 15, z := decide (r = 0), c := c }

/-- R181 to R184, R189, R190: SRA and SAC bit by bit, bit 15 copied into the vacated bits. Model's choice (log 7): D16, D17. Also (log 7): a flag not listed is kept (D10); R15 is read as the instruction's own address and written as a jump (D6). -/
def Obligations.ArithmeticRightShiftResults : Prop :=
  ∀ (rd : Reg) (count : BitVec 3) (s : State) (x : Word) (n : Nat) (c : Bool), x = s.readReg rd → n = count.toNat →
    c = (if n = 0 then s.flags.c else x.getLsbD (n - 1)) →
    (∃ t r, exec (.sra rd count) s = .next t ∧ (∀ k < 16, r.getLsbD k = x.getLsbD (min (k + n) 15)) ∧
      RegAndFlagsWritten s t rd true r { s.flags with n := r.getLsbD 15, z := decide (r = 0), c := c }) ∧
    ∃ t r, exec (.sac rd count) s = .next t ∧
      (∀ k < 16, r.getLsbD k = (x.getLsbD (min (k + n) 15) || decide (k = 15) && s.flags.c)) ∧
      RegAndFlagsWritten s t rd true r { s.flags with n := r.getLsbD 15, z := decide (r = 0), c := c }

/-- R189: what SRA leaves in Rd is floor(signed(x) / 2^n). Model's choice (log 9): signed means two's complement (G1). Also (log 7): a flag not listed is kept (D10); R15 is read as the instruction's own address and written as a jump (D6). -/
def Obligations.SraIsFloorDivision : Prop :=
  ∀ (rd : Reg) (count : BitVec 3) (s : State),
    ∃ t r f, exec (.sra rd count) s = .next t ∧ r.toInt = (s.readReg rd).toInt / 2 ^ count.toNat ∧
      RegAndFlagsWritten s t rd true r f

/-- R181 to R184, R191, R192: ROR and ROC bit by bit. Model's choice (log 7): D16, D17. Also (log 7): a flag not listed is kept (D10); R15 is read as the instruction's own address and written as a jump (D6). -/
def Obligations.RotateRightResults : Prop :=
  ∀ (rd : Reg) (count : BitVec 3) (s : State) (x : Word) (n : Nat) (c : Bool), x = s.readReg rd → n = count.toNat →
    c = (if n = 0 then s.flags.c else x.getLsbD (n - 1)) →
    (∃ t r, exec (.ror rd count) s = .next t ∧ (∀ k < 16, r.getLsbD k = x.getLsbD ((k + n) % 16)) ∧
      RegAndFlagsWritten s t rd true r { s.flags with n := r.getLsbD 15, z := decide (r = 0), c := c }) ∧
    ∃ t r, exec (.roc rd count) s = .next t ∧
      (∀ k < 16, r.getLsbD k = (x.getLsbD ((k + n) % 16) || decide (k = 15) && s.flags.c)) ∧
      RegAndFlagsWritten s t rd true r { s.flags with n := r.getLsbD 15, z := decide (r = 0), c := c }

/-! ### Jumps -/

/-- R201 to R208: where each short jump goes, taken and not taken. Model's choice (log 7): target8 is a signed offset from the jump's own address (D5). Also (log 7): a flag not listed is kept (D10). -/
def Obligations.ShortJumpTargets : Prop :=
  ∀ (target : BitVec 8) (s : State) (dest next : Word), dest.toInt = (s.pc.toInt + target.toInt).bmod (2 ^ 16) →
    next.toNat = (s.pc.toNat + 1) % 2 ^ 16 →
    (∃ t, exec (.jmp target) s = .next t ∧ OnlyPcWritten s t dest) ∧
    (∃ t, exec (.jz target) s = .next t ∧ OnlyPcWritten s t (if s.flags.z = true then dest else next)) ∧
    (∃ t, exec (.jnz target) s = .next t ∧ OnlyPcWritten s t (if s.flags.z = false then dest else next)) ∧
    (∃ t, exec (.jc target) s = .next t ∧ OnlyPcWritten s t (if s.flags.c = true then dest else next)) ∧
    (∃ t, exec (.jnc target) s = .next t ∧ OnlyPcWritten s t (if s.flags.c = false then dest else next)) ∧
    (∃ t, exec (.jn target) s = .next t ∧ OnlyPcWritten s t (if s.flags.n = true then dest else next)) ∧
    ∃ t, exec (.jnn target) s = .next t ∧ OnlyPcWritten s t (if s.flags.n = false then dest else next)

/-- R209: JRL jumps to the register's value and writes no other register. Model's choice (log 7): the place of the register field (D7). Also (log 7): a flag not listed is kept (D10); R15 is read as the instruction's own address and written as a jump (D6). -/
def Obligations.JrlJumpsToRegister : Prop :=
  ∀ (rs : Reg) (s : State), ∃ t, exec (.jrl rs) s = .next t ∧ OnlyPcWritten s t (s.readReg rs)

/-- R210: LJMP loads CS and the program counter from two words of the data segment, both read before either is written; a table word that nothing defined stops it. Model's choice (log 7): DS (D25), the stop (D33). Also (log 7): a flag not listed is kept (D10); R15 is read as the instruction's own address and written as a jump (D6). -/
def Obligations.LjmpLoadsCsAndPc : Prop :=
  ∀ (rs : Reg) (s : State) (p q : PhysAddr), p = s.phys .ds (s.readReg rs) → q = s.phys .ds (s.readReg rs + 1) →
    (∀ newCs newPc, s.mem.readWord p = some newCs → s.mem.readWord q = some newPc →
      ∃ t, exec (.ljmp rs) s = .next t ∧ t.cs = newCs ∧ PcBecame s t newPc ∧ RegsKept s t ∧ FlagsKept s t ∧
        ModeKept s t ∧ DataSegsKept s t ∧ MemKept s t) ∧
    (s.mem.readWord p = none → exec (.ljmp rs) s = .fault (.unspecified p)) ∧
    ((s.mem.readWord p).isSome → s.mem.readWord q = none → exec (.ljmp rs) s = .fault (.unspecified q))

/-! ### SET, CLR, MVS, SMV -/

/-- R220: SET ORs the mask into bits 7:0 of the active status word; S and I change last. Model's choice (log 7): bits 7:6 per view (D18), mask bit 4 (D37). -/
def Obligations.SetOrsMaskIntoStatus : Prop :=
  ∀ (mask : BitVec 8) (s : State), ∃ t, exec (.set mask) s = .next t ∧
    FlagsBecame s t
      { n := s.flags.n || mask.getLsbD 0, z := s.flags.z || mask.getLsbD 1, v := s.flags.v || mask.getLsbD 2,
        c := s.flags.c || mask.getLsbD 3, u6 := s.flags.u6 || mask.getLsbD 6, u7 := s.flags.u7 || mask.getLsbD 7 } ∧
    t.sBit = (s.sBit || mask.getLsbD 4) ∧ t.iBit = (s.iBit || mask.getLsbD 5) ∧ PcBecame s t (s.pc + 1) ∧
    t.halted = s.halted ∧ t.inputs = s.inputs ∧ t.latches = s.latches ∧ RegsKept s t ∧ SegsKept s t ∧ MemKept s t

/-- R221: CLR clears the mask's bits in bits 7:0 of the active status word. Model's choice (log 7): D18, D37. -/
def Obligations.ClrClearsMaskInStatus : Prop :=
  ∀ (mask : BitVec 8) (s : State), ∃ t, exec (.clr mask) s = .next t ∧
    FlagsBecame s t
      { n := s.flags.n && !mask.getLsbD 0, z := s.flags.z && !mask.getLsbD 1, v := s.flags.v && !mask.getLsbD 2,
        c := s.flags.c && !mask.getLsbD 3, u6 := s.flags.u6 && !mask.getLsbD 6, u7 := s.flags.u7 && !mask.getLsbD 7 } ∧
    t.sBit = (s.sBit && !mask.getLsbD 4) ∧ t.iBit = (s.iBit && !mask.getLsbD 5) ∧ PcBecame s t (s.pc + 1) ∧
    t.halted = s.halted ∧ t.inputs = s.inputs ∧ t.latches = s.latches ∧ RegsKept s t ∧ SegsKept s t ∧ MemKept s t

/-- R222: SET and CLR of mask bit 4 switch the view for the next instruction: its program counter and flags are the other view's, the view being left stops after the instruction, CS and I stay. Model's choice (log 7): D37. -/
def Obligations.StatusBitFourSwitchesTheView : Prop :=
  (∀ s : State, s.sBit = false → ∃ t, exec (.set 0x10) s = .next t ∧ t.pc = s.pcShadow ∧ t.flags = s.flShadow ∧
    t.pcNormal = s.pcNormal + 1 ∧ t.flNormal = s.flNormal ∧ t.cs = s.cs ∧ t.iBit = s.iBit) ∧
  (∀ s : State, s.sBit = true → ∃ t, exec (.clr 0x10) s = .next t ∧ t.pc = s.pcNormal ∧ t.flags = s.flNormal ∧
    t.pcShadow = s.pcShadow + 1 ∧ t.flShadow = s.flShadow ∧ t.cs = s.cs ∧ t.iBit = s.iBit) ∧
  ∀ s : State, (s.sBit = true → ∃ t, exec (.set 0x10) s = .next t ∧ OnlyPcWritten s t (s.pc + 1)) ∧
    (s.sBit = false → ∃ t, exec (.clr 0x10) s = .next t ∧ OnlyPcWritten s t (s.pc + 1))

/-- R223: MVS from a segment register, its encoding and effect, all 16 bits, for every destination. Model's choice (log 7): a flag not listed is kept (D10); R15 is read as the instruction's own address and written as a jump (D6). -/
def Obligations.MvsReadsSegment : Prop :=
  ∀ (rd : Reg) (seg : Seg) (s : State),
    decodeWord ((0b111111110 : BitVec 9) ++ (0 : BitVec 1) ++ rd ++ seg.code : BitVec 16) = .mvsFromSeg rd seg ∧
    ∃ t v, exec (.mvsFromSeg rd seg) s = .next t ∧ OnlyRegWritten s t rd v ∧
      v = match seg with
        | .cs => s.cs
        | .ds => s.ds
        | .ss => s.ss
        | .es => s.es

/-- R224: MVS to a segment register writes that one alone. Model's choice (log 7): 16 bits (D1), CS included and at once (D38). Also (log 7): a flag not listed is kept (D10); R15 is read as the instruction's own address and written as a jump (D6). -/
def Obligations.MvsWritesSegment : Prop :=
  ∀ (rd : Reg) (seg : Seg) (s : State), ∃ t, exec (.mvsToSeg rd seg) s = .next t ∧
    t.cs = (if seg = .cs then s.readReg rd else s.cs) ∧ t.ds = (if seg = .ds then s.readReg rd else s.ds) ∧
    t.ss = (if seg = .ss then s.readReg rd else s.ss) ∧ t.es = (if seg = .es then s.readReg rd else s.es) ∧
    PcBecame s t (s.pc + 1) ∧ RegsKept s t ∧ FlagsKept s t ∧ ModeKept s t ∧ MemKept s t

/-- R43, R227: the three sources of SMV do not depend on the mode but for SRC = 00, the program counter of the view not running; and every bit of the status word of each view. Model's choice (log 7): psw(v) of D18, with I and S single and bits 7:6 stored per view. Also (log 7): a flag not listed is kept (D10); R15 is read as the instruction's own address and written as a jump (D6). -/
def Obligations.SmvReadsTheTwoViews : Prop :=
  ∀ (dst : Reg) (s : State),
    (∃ t, exec (.smvInactivePc dst) s = .next t ∧ OnlyRegWritten s t dst (if s.sBit then s.pcNormal else s.pcShadow)) ∧
    (∃ t, exec (.smvShadowPsw dst) s = .next t ∧ OnlyRegWritten s t dst (s.psw .shadow)) ∧
    (∃ t, exec (.smvNormalPsw dst) s = .next t ∧ OnlyRegWritten s t dst (s.psw .normal)) ∧
    ∀ v : View, (s.psw v).getLsbD 0 = (s.flagsOf v).n ∧ (s.psw v).getLsbD 1 = (s.flagsOf v).z ∧
      (s.psw v).getLsbD 2 = (s.flagsOf v).v ∧ (s.psw v).getLsbD 3 = (s.flagsOf v).c ∧
      (s.psw v).getLsbD 4 = s.sBit ∧ (s.psw v).getLsbD 5 = s.iBit ∧
      (s.psw v).getLsbD 6 = (s.flagsOf v).u6 ∧ (s.psw v).getLsbD 7 = (s.flagsOf v).u7 ∧ (s.psw v).toNat < 256

/-! ### SWB, INV -/

/-- R240: SWB, its encoding and effect: the two bytes change places. Model's choice (log 7): a flag not listed is kept (D10); R15 is read as the instruction's own address and written as a jump (D6). -/
def Obligations.SwbSwapsBytes : Prop :=
  ∀ (rx : Reg) (s : State),
    decodeWord ((0b11111111110 : BitVec 11) ++ (0 : BitVec 1) ++ rx : BitVec 16) = .swb rx ∧
    ∃ t r, exec (.swb rx) s = .next t ∧
      r.toNat = (s.readReg rx).toNat % 256 * 256 + (s.readReg rx).toNat / 256 ∧ OnlyRegWritten s t rx r

/-- R241: INV, its encoding and effect: 0xFFFF minus the register. Model's choice (log 7): a flag not listed is kept (D10); R15 is read as the instruction's own address and written as a jump (D6). -/
def Obligations.InvInvertsBits : Prop :=
  ∀ (rx : Reg) (s : State),
    decodeWord ((0b11111111110 : BitVec 11) ++ (1 : BitVec 1) ++ rx : BitVec 16) = .inv rx ∧
    ∃ t r, exec (.inv rx) s = .next t ∧ r.toNat = 0xFFFF - (s.readReg rx).toNat ∧ OnlyRegWritten s t rx r

/-! ### NOP, HLT, SWI, RETI -/

/-- R250: NOP, its word and effect, and that a pending enabled request is taken after it. Model's choice (log 7): a level input (D22); (log 4): the inputs are a list in the state. Also (log 7): a flag not listed is kept (D10). -/
def Obligations.NopOnlyAdvances : Prop :=
  decodeWord 0xFFF0 = .nop ∧
  ∀ s : State, ∃ t, exec .nop s = .next t ∧ OnlyPcWritten s t (s.pc + 1) ∧
    (t.halted = false → t.pins.resetLine = false → t.pins.irqLine = true → t.iBit = true →
      step t = enterTrap 2 { t with inputs := t.inputs.tail })

/-- R251: HLT advances the program counter and halts. Model's choice (log 7): D23. Also (log 7): a flag not listed is kept (D10). -/
def Obligations.HltHalts : Prop :=
  ∀ s : State, ∃ t, exec .hlt s = .next t ∧ t.halted = true ∧ PcBecame s t (s.pc + 1) ∧ t.sBit = s.sBit ∧
    t.iBit = s.iBit ∧ t.inputs = s.inputs ∧ t.latches = s.latches ∧ RegsKept s t ∧ FlagsKept s t ∧ SegsKept s t ∧ MemKept s t

/-- R253, R270, R278: SWI enters the trap of vector 1 in either mode and whatever I is; a vector word that nothing defined stops it. Model's choice (log 7): the vector table holds pointers (D19), the entry's details (D20), overwriting in a handler (D21), the stop (D33). -/
def Obligations.SwiEntersVectorOne : Prop :=
  ∀ s : State,
    (∀ target, s.mem.readWord 1 = some target →
      ∃ t, exec .swi s = .next t ∧ TrapEntered s t target (s.pc + 1) ∧ t.inputs = s.inputs) ∧
    (s.mem.readWord 1 = none → exec .swi s = .fault (.unspecified 1))

/-- R254: RETI, its word and effect: the view that ran it stops after it, S = 0, I = 1 whatever it was, nothing is copied and CS stays; execution continues in the normal view, after a pending request if there is one. Model's choice (log 7): CS is not restored (D20), a level input (D22), one I for both views (D18); (log 4): the inputs are a list in the state; (log 18): the program counter advances before S changes. -/
def Obligations.RetiReturnsToNormalView : Prop :=
  decodeWord 0xFFF3 = .reti ∧
  ∀ s : State, ∃ t, exec .reti s = .next t ∧ t.sBit = false ∧ t.iBit = true ∧ PcBecame s t (s.pc + 1) ∧
    t.pc = (if s.sBit then s.pcNormal else s.pcNormal + 1) ∧ t.flags = s.flNormal ∧ t.halted = s.halted ∧
    t.inputs = s.inputs ∧ t.latches = s.latches ∧ RegsKept s t ∧ FlagsKept s t ∧ SegsKept s t ∧ MemKept s t ∧
    (t.halted = false → t.pins.resetLine = false → t.pins.irqLine = true →
      step t = enterTrap 2 { t with inputs := t.inputs.tail })

/-! ### The reserved rows -/

/-- R114, R172: each reserved row of the opcode table stops, with its word or its odd register. Model's choice (log 7): D15, D26. -/
def Obligations.ReservedRowsStop : Prop :=
  ∀ s : State,
    (∀ low : BitVec 13, exec (.reservedLdSt low) s = .fault (.reserved (0b10#2 ++ low ++ 1#1))) ∧
    (∀ rd w b, exec (.reservedMulOdd rd w b) s = .fault (.oddPair rd)) ∧
    (∀ rd w b, exec (.reservedDivOdd rd w b) s = .fault (.oddPair rd)) ∧
    (∀ low : BitVec 11, exec (.reservedJump low) s = .fault (.reserved (0b1110#4 ++ low ++ 1#1))) ∧
    (∀ low : BitVec 7, exec (.reservedJrl7 low) s = .fault (.reserved (0b11101111#8 ++ low ++ 0#1))) ∧
    (∀ low : BitVec 6, exec (.reservedJrl6 low) s = .fault (.reserved (0b111011101#9 ++ low ++ 0#1))) ∧
    (∀ low : BitVec 5, exec (.reservedJrl5 low) s = .fault (.reserved (0b1110111001#10 ++ low ++ 0#1))) ∧
    (∀ low : BitVec 4, exec (.reservedJrl4 low) s = .fault (.reserved (0b11101110001#11 ++ low ++ 0#1))) ∧
    (∀ low : BitVec 8, exec (.reservedOpcode low) s = .fault (.reserved (0b11111110#8 ++ low))) ∧
    (∀ dst : Reg, exec (.reservedSmv dst) s = .fault (.reserved (0b111111111011#12 ++ dst))) ∧
    (∀ low : BitVec 2, exec (.reservedSys low) s = .fault (.reserved (0b11111111111101#14 ++ low))) ∧
    ∀ low : BitVec 3, exec (.reservedOnes low) s = .fault (.reserved (0b1111111111111#13 ++ low))
end

