-- ==== Sys2Proof/Laws/State.lean ====
section
/-! SUPPORT. One lemma per field per update of `State`, so that no later proof unfolds a record update; then the observers (`view`, `pcOf`, `flagsOf`, `segOf`) after each update. -/

namespace Sys2Proof.Machine

/-! ### The parameters in use

At the values in use these operations are the state, the bank or the bit itself. -/

@[simp] theorem FlagBank.kept_eq (f : FlagBank) : f.kept = f := rfl
@[simp] theorem State.keepFlags_eq (s : State) : s.keepFlags = s := rfl
@[simp] theorem State.iOf_eq (s : State) (v : View) : s.iOf v = s.iBit := rfl
@[simp] theorem State.setIOf_eq (s : State) (v : View) (b : Bool) : s.setIOf v b = { s with iBit := b } := rfl
@[simp] theorem State.latchCs_eq (s : State) : s.latchCs = s := rfl
@[simp] theorem State.restoreCs_eq (s : State) : s.restoreCs = s := rfl
@[simp] theorem State.requested_eq (s : State) : s.requested = s.pins.irqLine := rfl
@[simp] theorem State.acknowledge_eq (s : State) : s.acknowledge = s := rfl

/-! ### setPcOf -/

@[simp] theorem State.setPcOf_regs (s : State) (v : View) (a : Word) : (s.setPcOf v a).regs = s.regs := by cases v <;> rfl
@[simp] theorem State.setPcOf_flNormal (s : State) (v : View) (a : Word) : (s.setPcOf v a).flNormal = s.flNormal := by cases v <;> rfl
@[simp] theorem State.setPcOf_flShadow (s : State) (v : View) (a : Word) : (s.setPcOf v a).flShadow = s.flShadow := by cases v <;> rfl
@[simp] theorem State.setPcOf_iBit (s : State) (v : View) (a : Word) : (s.setPcOf v a).iBit = s.iBit := by cases v <;> rfl
@[simp] theorem State.setPcOf_sBit (s : State) (v : View) (a : Word) : (s.setPcOf v a).sBit = s.sBit := by cases v <;> rfl
@[simp] theorem State.setPcOf_cs (s : State) (v : View) (a : Word) : (s.setPcOf v a).cs = s.cs := by cases v <;> rfl
@[simp] theorem State.setPcOf_ds (s : State) (v : View) (a : Word) : (s.setPcOf v a).ds = s.ds := by cases v <;> rfl
@[simp] theorem State.setPcOf_ss (s : State) (v : View) (a : Word) : (s.setPcOf v a).ss = s.ss := by cases v <;> rfl
@[simp] theorem State.setPcOf_es (s : State) (v : View) (a : Word) : (s.setPcOf v a).es = s.es := by cases v <;> rfl
@[simp] theorem State.setPcOf_halted (s : State) (v : View) (a : Word) : (s.setPcOf v a).halted = s.halted := by cases v <;> rfl
@[simp] theorem State.setPcOf_mem (s : State) (v : View) (a : Word) : (s.setPcOf v a).mem = s.mem := by cases v <;> rfl
@[simp] theorem State.setPcOf_inputs (s : State) (v : View) (a : Word) : (s.setPcOf v a).inputs = s.inputs := by cases v <;> rfl
@[simp] theorem State.setPcOf_latches (s : State) (v : View) (a : Word) : (s.setPcOf v a).latches = s.latches := by cases v <;> rfl

/-! ### setFlagsOf -/

@[simp] theorem State.setFlagsOf_regs (s : State) (v : View) (f : FlagBank) : (s.setFlagsOf v f).regs = s.regs := by cases v <;> rfl
@[simp] theorem State.setFlagsOf_pcNormal (s : State) (v : View) (f : FlagBank) : (s.setFlagsOf v f).pcNormal = s.pcNormal := by cases v <;> rfl
@[simp] theorem State.setFlagsOf_pcShadow (s : State) (v : View) (f : FlagBank) : (s.setFlagsOf v f).pcShadow = s.pcShadow := by cases v <;> rfl
@[simp] theorem State.setFlagsOf_iBit (s : State) (v : View) (f : FlagBank) : (s.setFlagsOf v f).iBit = s.iBit := by cases v <;> rfl
@[simp] theorem State.setFlagsOf_sBit (s : State) (v : View) (f : FlagBank) : (s.setFlagsOf v f).sBit = s.sBit := by cases v <;> rfl
@[simp] theorem State.setFlagsOf_cs (s : State) (v : View) (f : FlagBank) : (s.setFlagsOf v f).cs = s.cs := by cases v <;> rfl
@[simp] theorem State.setFlagsOf_ds (s : State) (v : View) (f : FlagBank) : (s.setFlagsOf v f).ds = s.ds := by cases v <;> rfl
@[simp] theorem State.setFlagsOf_ss (s : State) (v : View) (f : FlagBank) : (s.setFlagsOf v f).ss = s.ss := by cases v <;> rfl
@[simp] theorem State.setFlagsOf_es (s : State) (v : View) (f : FlagBank) : (s.setFlagsOf v f).es = s.es := by cases v <;> rfl
@[simp] theorem State.setFlagsOf_halted (s : State) (v : View) (f : FlagBank) : (s.setFlagsOf v f).halted = s.halted := by cases v <;> rfl
@[simp] theorem State.setFlagsOf_mem (s : State) (v : View) (f : FlagBank) : (s.setFlagsOf v f).mem = s.mem := by cases v <;> rfl
@[simp] theorem State.setFlagsOf_inputs (s : State) (v : View) (f : FlagBank) : (s.setFlagsOf v f).inputs = s.inputs := by cases v <;> rfl
@[simp] theorem State.setFlagsOf_latches (s : State) (v : View) (f : FlagBank) : (s.setFlagsOf v f).latches = s.latches := by cases v <;> rfl

/-! ### setPc -/

@[simp] theorem State.setPc_regs (s : State) (a : Word) : (s.setPc a).regs = s.regs := by simp [State.setPc]
@[simp] theorem State.setPc_flNormal (s : State) (a : Word) : (s.setPc a).flNormal = s.flNormal := by simp [State.setPc]
@[simp] theorem State.setPc_flShadow (s : State) (a : Word) : (s.setPc a).flShadow = s.flShadow := by simp [State.setPc]
@[simp] theorem State.setPc_iBit (s : State) (a : Word) : (s.setPc a).iBit = s.iBit := by simp [State.setPc]
@[simp] theorem State.setPc_sBit (s : State) (a : Word) : (s.setPc a).sBit = s.sBit := by simp [State.setPc]
@[simp] theorem State.setPc_cs (s : State) (a : Word) : (s.setPc a).cs = s.cs := by simp [State.setPc]
@[simp] theorem State.setPc_ds (s : State) (a : Word) : (s.setPc a).ds = s.ds := by simp [State.setPc]
@[simp] theorem State.setPc_ss (s : State) (a : Word) : (s.setPc a).ss = s.ss := by simp [State.setPc]
@[simp] theorem State.setPc_es (s : State) (a : Word) : (s.setPc a).es = s.es := by simp [State.setPc]
@[simp] theorem State.setPc_halted (s : State) (a : Word) : (s.setPc a).halted = s.halted := by simp [State.setPc]
@[simp] theorem State.setPc_mem (s : State) (a : Word) : (s.setPc a).mem = s.mem := by simp [State.setPc]
@[simp] theorem State.setPc_inputs (s : State) (a : Word) : (s.setPc a).inputs = s.inputs := by simp [State.setPc]
@[simp] theorem State.setPc_latches (s : State) (a : Word) : (s.setPc a).latches = s.latches := by simp [State.setPc]

/-! ### advance -/

@[simp] theorem State.advance_regs (s : State) : (s.advance).regs = s.regs := by simp [State.advance]
@[simp] theorem State.advance_flNormal (s : State) : (s.advance).flNormal = s.flNormal := by simp [State.advance]
@[simp] theorem State.advance_flShadow (s : State) : (s.advance).flShadow = s.flShadow := by simp [State.advance]
@[simp] theorem State.advance_iBit (s : State) : (s.advance).iBit = s.iBit := by simp [State.advance]
@[simp] theorem State.advance_sBit (s : State) : (s.advance).sBit = s.sBit := by simp [State.advance]
@[simp] theorem State.advance_cs (s : State) : (s.advance).cs = s.cs := by simp [State.advance]
@[simp] theorem State.advance_ds (s : State) : (s.advance).ds = s.ds := by simp [State.advance]
@[simp] theorem State.advance_ss (s : State) : (s.advance).ss = s.ss := by simp [State.advance]
@[simp] theorem State.advance_es (s : State) : (s.advance).es = s.es := by simp [State.advance]
@[simp] theorem State.advance_halted (s : State) : (s.advance).halted = s.halted := by simp [State.advance]
@[simp] theorem State.advance_mem (s : State) : (s.advance).mem = s.mem := by simp [State.advance]
@[simp] theorem State.advance_inputs (s : State) : (s.advance).inputs = s.inputs := by simp [State.advance]
@[simp] theorem State.advance_latches (s : State) : (s.advance).latches = s.latches := by simp [State.advance]

/-! ### setFlags -/

@[simp] theorem State.setFlags_regs (s : State) (f : FlagBank) : (s.setFlags f).regs = s.regs := by simp [State.setFlags]
@[simp] theorem State.setFlags_pcNormal (s : State) (f : FlagBank) : (s.setFlags f).pcNormal = s.pcNormal := by simp [State.setFlags]
@[simp] theorem State.setFlags_pcShadow (s : State) (f : FlagBank) : (s.setFlags f).pcShadow = s.pcShadow := by simp [State.setFlags]
@[simp] theorem State.setFlags_iBit (s : State) (f : FlagBank) : (s.setFlags f).iBit = s.iBit := by simp [State.setFlags]
@[simp] theorem State.setFlags_sBit (s : State) (f : FlagBank) : (s.setFlags f).sBit = s.sBit := by simp [State.setFlags]
@[simp] theorem State.setFlags_cs (s : State) (f : FlagBank) : (s.setFlags f).cs = s.cs := by simp [State.setFlags]
@[simp] theorem State.setFlags_ds (s : State) (f : FlagBank) : (s.setFlags f).ds = s.ds := by simp [State.setFlags]
@[simp] theorem State.setFlags_ss (s : State) (f : FlagBank) : (s.setFlags f).ss = s.ss := by simp [State.setFlags]
@[simp] theorem State.setFlags_es (s : State) (f : FlagBank) : (s.setFlags f).es = s.es := by simp [State.setFlags]
@[simp] theorem State.setFlags_halted (s : State) (f : FlagBank) : (s.setFlags f).halted = s.halted := by simp [State.setFlags]
@[simp] theorem State.setFlags_mem (s : State) (f : FlagBank) : (s.setFlags f).mem = s.mem := by simp [State.setFlags]
@[simp] theorem State.setFlags_inputs (s : State) (f : FlagBank) : (s.setFlags f).inputs = s.inputs := by simp [State.setFlags]
@[simp] theorem State.setFlags_latches (s : State) (f : FlagBank) : (s.setFlags f).latches = s.latches := by simp [State.setFlags]

/-! ### writeReg -/

@[simp] theorem State.writeReg_flNormal (s : State) (r : Reg) (v : Word) : (s.writeReg r v).flNormal = s.flNormal := by unfold State.writeReg; split <;> simp
@[simp] theorem State.writeReg_flShadow (s : State) (r : Reg) (v : Word) : (s.writeReg r v).flShadow = s.flShadow := by unfold State.writeReg; split <;> simp
@[simp] theorem State.writeReg_iBit (s : State) (r : Reg) (v : Word) : (s.writeReg r v).iBit = s.iBit := by unfold State.writeReg; split <;> simp
@[simp] theorem State.writeReg_sBit (s : State) (r : Reg) (v : Word) : (s.writeReg r v).sBit = s.sBit := by unfold State.writeReg; split <;> simp
@[simp] theorem State.writeReg_cs (s : State) (r : Reg) (v : Word) : (s.writeReg r v).cs = s.cs := by unfold State.writeReg; split <;> simp
@[simp] theorem State.writeReg_ds (s : State) (r : Reg) (v : Word) : (s.writeReg r v).ds = s.ds := by unfold State.writeReg; split <;> simp
@[simp] theorem State.writeReg_ss (s : State) (r : Reg) (v : Word) : (s.writeReg r v).ss = s.ss := by unfold State.writeReg; split <;> simp
@[simp] theorem State.writeReg_es (s : State) (r : Reg) (v : Word) : (s.writeReg r v).es = s.es := by unfold State.writeReg; split <;> simp
@[simp] theorem State.writeReg_halted (s : State) (r : Reg) (v : Word) : (s.writeReg r v).halted = s.halted := by unfold State.writeReg; split <;> simp
@[simp] theorem State.writeReg_mem (s : State) (r : Reg) (v : Word) : (s.writeReg r v).mem = s.mem := by unfold State.writeReg; split <;> simp
@[simp] theorem State.writeReg_inputs (s : State) (r : Reg) (v : Word) : (s.writeReg r v).inputs = s.inputs := by unfold State.writeReg; split <;> simp
@[simp] theorem State.writeReg_latches (s : State) (r : Reg) (v : Word) : (s.writeReg r v).latches = s.latches := by unfold State.writeReg; split <;> simp

/-! ### writePair -/

@[simp] theorem State.writePair_flNormal (s : State) (rd : Reg) (p : DWord) : (s.writePair rd p).flNormal = s.flNormal := by simp [State.writePair]
@[simp] theorem State.writePair_flShadow (s : State) (rd : Reg) (p : DWord) : (s.writePair rd p).flShadow = s.flShadow := by simp [State.writePair]
@[simp] theorem State.writePair_iBit (s : State) (rd : Reg) (p : DWord) : (s.writePair rd p).iBit = s.iBit := by simp [State.writePair]
@[simp] theorem State.writePair_sBit (s : State) (rd : Reg) (p : DWord) : (s.writePair rd p).sBit = s.sBit := by simp [State.writePair]
@[simp] theorem State.writePair_cs (s : State) (rd : Reg) (p : DWord) : (s.writePair rd p).cs = s.cs := by simp [State.writePair]
@[simp] theorem State.writePair_ds (s : State) (rd : Reg) (p : DWord) : (s.writePair rd p).ds = s.ds := by simp [State.writePair]
@[simp] theorem State.writePair_ss (s : State) (rd : Reg) (p : DWord) : (s.writePair rd p).ss = s.ss := by simp [State.writePair]
@[simp] theorem State.writePair_es (s : State) (rd : Reg) (p : DWord) : (s.writePair rd p).es = s.es := by simp [State.writePair]
@[simp] theorem State.writePair_halted (s : State) (rd : Reg) (p : DWord) : (s.writePair rd p).halted = s.halted := by simp [State.writePair]
@[simp] theorem State.writePair_mem (s : State) (rd : Reg) (p : DWord) : (s.writePair rd p).mem = s.mem := by simp [State.writePair]
@[simp] theorem State.writePair_inputs (s : State) (rd : Reg) (p : DWord) : (s.writePair rd p).inputs = s.inputs := by simp [State.writePair]
@[simp] theorem State.writePair_latches (s : State) (rd : Reg) (p : DWord) : (s.writePair rd p).latches = s.latches := by simp [State.writePair]

/-! ### setSeg -/

@[simp] theorem State.setSeg_regs (s : State) (g : Seg) (v : Word) : (s.setSeg g v).regs = s.regs := by cases g <;> rfl
@[simp] theorem State.setSeg_pcNormal (s : State) (g : Seg) (v : Word) : (s.setSeg g v).pcNormal = s.pcNormal := by cases g <;> rfl
@[simp] theorem State.setSeg_pcShadow (s : State) (g : Seg) (v : Word) : (s.setSeg g v).pcShadow = s.pcShadow := by cases g <;> rfl
@[simp] theorem State.setSeg_flNormal (s : State) (g : Seg) (v : Word) : (s.setSeg g v).flNormal = s.flNormal := by cases g <;> rfl
@[simp] theorem State.setSeg_flShadow (s : State) (g : Seg) (v : Word) : (s.setSeg g v).flShadow = s.flShadow := by cases g <;> rfl
@[simp] theorem State.setSeg_iBit (s : State) (g : Seg) (v : Word) : (s.setSeg g v).iBit = s.iBit := by cases g <;> rfl
@[simp] theorem State.setSeg_sBit (s : State) (g : Seg) (v : Word) : (s.setSeg g v).sBit = s.sBit := by cases g <;> rfl
@[simp] theorem State.setSeg_halted (s : State) (g : Seg) (v : Word) : (s.setSeg g v).halted = s.halted := by cases g <;> rfl
@[simp] theorem State.setSeg_mem (s : State) (g : Seg) (v : Word) : (s.setSeg g v).mem = s.mem := by cases g <;> rfl
@[simp] theorem State.setSeg_inputs (s : State) (g : Seg) (v : Word) : (s.setSeg g v).inputs = s.inputs := by cases g <;> rfl
@[simp] theorem State.setSeg_latches (s : State) (g : Seg) (v : Word) : (s.setSeg g v).latches = s.latches := by cases g <;> rfl

/-! ### store -/

@[simp] theorem State.store_regs (s : State) (pa : PhysAddr) (v : Word) : (s.store pa v).regs = s.regs := rfl
@[simp] theorem State.store_pcNormal (s : State) (pa : PhysAddr) (v : Word) : (s.store pa v).pcNormal = s.pcNormal := rfl
@[simp] theorem State.store_pcShadow (s : State) (pa : PhysAddr) (v : Word) : (s.store pa v).pcShadow = s.pcShadow := rfl
@[simp] theorem State.store_flNormal (s : State) (pa : PhysAddr) (v : Word) : (s.store pa v).flNormal = s.flNormal := rfl
@[simp] theorem State.store_flShadow (s : State) (pa : PhysAddr) (v : Word) : (s.store pa v).flShadow = s.flShadow := rfl
@[simp] theorem State.store_iBit (s : State) (pa : PhysAddr) (v : Word) : (s.store pa v).iBit = s.iBit := rfl
@[simp] theorem State.store_sBit (s : State) (pa : PhysAddr) (v : Word) : (s.store pa v).sBit = s.sBit := rfl
@[simp] theorem State.store_cs (s : State) (pa : PhysAddr) (v : Word) : (s.store pa v).cs = s.cs := rfl
@[simp] theorem State.store_ds (s : State) (pa : PhysAddr) (v : Word) : (s.store pa v).ds = s.ds := rfl
@[simp] theorem State.store_ss (s : State) (pa : PhysAddr) (v : Word) : (s.store pa v).ss = s.ss := rfl
@[simp] theorem State.store_es (s : State) (pa : PhysAddr) (v : Word) : (s.store pa v).es = s.es := rfl
@[simp] theorem State.store_halted (s : State) (pa : PhysAddr) (v : Word) : (s.store pa v).halted = s.halted := rfl
@[simp] theorem State.store_mem (s : State) (pa : PhysAddr) (v : Word) : (s.store pa v).mem = s.mem.writeWord pa v := rfl
@[simp] theorem State.store_inputs (s : State) (pa : PhysAddr) (v : Word) : (s.store pa v).inputs = s.inputs := rfl
@[simp] theorem State.store_latches (s : State) (pa : PhysAddr) (v : Word) : (s.store pa v).latches = s.latches := rfl

/-! ### trapTo -/

@[simp] theorem State.trapTo_regs (s : State) (a : Word) : (s.trapTo a).regs = s.regs := rfl
@[simp] theorem State.trapTo_pcNormal (s : State) (a : Word) : (s.trapTo a).pcNormal = s.pcNormal := rfl
@[simp] theorem State.trapTo_pcShadow (s : State) (a : Word) : (s.trapTo a).pcShadow = a := rfl
@[simp] theorem State.trapTo_flNormal (s : State) (a : Word) : (s.trapTo a).flNormal = s.flNormal := rfl
@[simp] theorem State.trapTo_flShadow (s : State) (a : Word) : (s.trapTo a).flShadow = s.flShadow := rfl
@[simp] theorem State.trapTo_iBit (s : State) (a : Word) : (s.trapTo a).iBit = false := rfl
@[simp] theorem State.trapTo_sBit (s : State) (a : Word) : (s.trapTo a).sBit = true := rfl
@[simp] theorem State.trapTo_cs (s : State) (a : Word) : (s.trapTo a).cs = 0 := rfl
@[simp] theorem State.trapTo_ds (s : State) (a : Word) : (s.trapTo a).ds = s.ds := rfl
@[simp] theorem State.trapTo_ss (s : State) (a : Word) : (s.trapTo a).ss = s.ss := rfl
@[simp] theorem State.trapTo_es (s : State) (a : Word) : (s.trapTo a).es = s.es := rfl
@[simp] theorem State.trapTo_halted (s : State) (a : Word) : (s.trapTo a).halted = s.halted := rfl
@[simp] theorem State.trapTo_mem (s : State) (a : Word) : (s.trapTo a).mem = s.mem := rfl
@[simp] theorem State.trapTo_inputs (s : State) (a : Word) : (s.trapTo a).inputs = s.inputs := rfl
@[simp] theorem State.trapTo_latches (s : State) (a : Word) : (s.trapTo a).latches = s.latches := rfl

/-! ### returnFromTrap -/

@[simp] theorem State.returnFromTrap_regs (s : State) : (s.returnFromTrap).regs = s.regs := rfl
@[simp] theorem State.returnFromTrap_pcNormal (s : State) : (s.returnFromTrap).pcNormal = s.pcNormal := rfl
@[simp] theorem State.returnFromTrap_pcShadow (s : State) : (s.returnFromTrap).pcShadow = s.pcShadow := rfl
@[simp] theorem State.returnFromTrap_flNormal (s : State) : (s.returnFromTrap).flNormal = s.flNormal := rfl
@[simp] theorem State.returnFromTrap_flShadow (s : State) : (s.returnFromTrap).flShadow = s.flShadow := rfl
@[simp] theorem State.returnFromTrap_iBit (s : State) : (s.returnFromTrap).iBit = true := rfl
@[simp] theorem State.returnFromTrap_sBit (s : State) : (s.returnFromTrap).sBit = false := rfl
@[simp] theorem State.returnFromTrap_cs (s : State) : (s.returnFromTrap).cs = s.cs := rfl
@[simp] theorem State.returnFromTrap_ds (s : State) : (s.returnFromTrap).ds = s.ds := rfl
@[simp] theorem State.returnFromTrap_ss (s : State) : (s.returnFromTrap).ss = s.ss := rfl
@[simp] theorem State.returnFromTrap_es (s : State) : (s.returnFromTrap).es = s.es := rfl
@[simp] theorem State.returnFromTrap_halted (s : State) : (s.returnFromTrap).halted = s.halted := rfl
@[simp] theorem State.returnFromTrap_mem (s : State) : (s.returnFromTrap).mem = s.mem := rfl
@[simp] theorem State.returnFromTrap_inputs (s : State) : (s.returnFromTrap).inputs = s.inputs := rfl
@[simp] theorem State.returnFromTrap_latches (s : State) : (s.returnFromTrap).latches = s.latches := rfl

/-! ### writePswLow -/

@[simp] theorem State.writePswLow_regs (s : State) (v : View) (p : Byte) : (s.writePswLow v p).regs = s.regs := by simp [State.writePswLow]
@[simp] theorem State.writePswLow_pcNormal (s : State) (v : View) (p : Byte) : (s.writePswLow v p).pcNormal = s.pcNormal := by simp [State.writePswLow]
@[simp] theorem State.writePswLow_pcShadow (s : State) (v : View) (p : Byte) : (s.writePswLow v p).pcShadow = s.pcShadow := by simp [State.writePswLow]
@[simp] theorem State.writePswLow_iBit (s : State) (v : View) (p : Byte) : (s.writePswLow v p).iBit = p.getLsbD 5 := rfl
@[simp] theorem State.writePswLow_sBit (s : State) (v : View) (p : Byte) : (s.writePswLow v p).sBit = p.getLsbD 4 := rfl
@[simp] theorem State.writePswLow_cs (s : State) (v : View) (p : Byte) : (s.writePswLow v p).cs = s.cs := by simp [State.writePswLow]
@[simp] theorem State.writePswLow_ds (s : State) (v : View) (p : Byte) : (s.writePswLow v p).ds = s.ds := by simp [State.writePswLow]
@[simp] theorem State.writePswLow_ss (s : State) (v : View) (p : Byte) : (s.writePswLow v p).ss = s.ss := by simp [State.writePswLow]
@[simp] theorem State.writePswLow_es (s : State) (v : View) (p : Byte) : (s.writePswLow v p).es = s.es := by simp [State.writePswLow]
@[simp] theorem State.writePswLow_halted (s : State) (v : View) (p : Byte) : (s.writePswLow v p).halted = s.halted := by simp [State.writePswLow]
@[simp] theorem State.writePswLow_mem (s : State) (v : View) (p : Byte) : (s.writePswLow v p).mem = s.mem := by simp [State.writePswLow]
@[simp] theorem State.writePswLow_inputs (s : State) (v : View) (p : Byte) : (s.writePswLow v p).inputs = s.inputs := by simp [State.writePswLow]
@[simp] theorem State.writePswLow_latches (s : State) (v : View) (p : Byte) : (s.writePswLow v p).latches = s.latches := by simp [State.writePswLow]

/-! ### sampled -/

@[simp] theorem State.sampled_regs (s : State) : (s.sampled).regs = s.regs := rfl
@[simp] theorem State.sampled_pcNormal (s : State) : (s.sampled).pcNormal = s.pcNormal := rfl
@[simp] theorem State.sampled_pcShadow (s : State) : (s.sampled).pcShadow = s.pcShadow := rfl
@[simp] theorem State.sampled_flNormal (s : State) : (s.sampled).flNormal = s.flNormal := rfl
@[simp] theorem State.sampled_flShadow (s : State) : (s.sampled).flShadow = s.flShadow := rfl
@[simp] theorem State.sampled_iBit (s : State) : (s.sampled).iBit = s.iBit := rfl
@[simp] theorem State.sampled_sBit (s : State) : (s.sampled).sBit = s.sBit := rfl
@[simp] theorem State.sampled_cs (s : State) : (s.sampled).cs = s.cs := rfl
@[simp] theorem State.sampled_ds (s : State) : (s.sampled).ds = s.ds := rfl
@[simp] theorem State.sampled_ss (s : State) : (s.sampled).ss = s.ss := rfl
@[simp] theorem State.sampled_es (s : State) : (s.sampled).es = s.es := rfl
@[simp] theorem State.sampled_halted (s : State) : (s.sampled).halted = s.halted := rfl
@[simp] theorem State.sampled_mem (s : State) : (s.sampled).mem = s.mem := rfl
@[simp] theorem State.sampled_inputs (s : State) : (s.sampled).inputs = s.inputs.tail := rfl
@[simp] theorem State.sampled_latches (s : State) : (s.sampled).latches = s.latches := rfl

/-! ### The view -/

@[simp] theorem View.other_other (v : View) : v.other.other = v := by cases v <;> rfl
@[simp] theorem View.other_ne (v : View) : v.other ≠ v := by cases v <;> decide
@[simp] theorem View.ne_other (v : View) : v ≠ v.other := by cases v <;> decide

/-- The view depends on S alone. -/
theorem State.view_congr {s t : State} (h : t.sBit = s.sBit) : t.view = s.view := by
  simp [State.view, h]

@[simp] theorem State.setPcOf_view (s : State) (v : View) (a : Word) : (s.setPcOf v a).view = s.view := State.view_congr (by simp)
@[simp] theorem State.setFlagsOf_view (s : State) (v : View) (f : FlagBank) : (s.setFlagsOf v f).view = s.view := State.view_congr (by simp)
@[simp] theorem State.setPc_view (s : State) (a : Word) : (s.setPc a).view = s.view := State.view_congr (by simp)
@[simp] theorem State.advance_view (s : State) : (s.advance).view = s.view := State.view_congr (by simp)
@[simp] theorem State.setFlags_view (s : State) (f : FlagBank) : (s.setFlags f).view = s.view := State.view_congr (by simp)
@[simp] theorem State.writeReg_view (s : State) (r : Reg) (v : Word) : (s.writeReg r v).view = s.view := State.view_congr (by simp)
@[simp] theorem State.writePair_view (s : State) (rd : Reg) (p : DWord) : (s.writePair rd p).view = s.view := State.view_congr (by simp)
@[simp] theorem State.setSeg_view (s : State) (g : Seg) (v : Word) : (s.setSeg g v).view = s.view := State.view_congr (by simp)
@[simp] theorem State.store_view (s : State) (pa : PhysAddr) (v : Word) : (s.store pa v).view = s.view := State.view_congr (by simp)
@[simp] theorem State.sampled_view (s : State) : (s.sampled).view = s.view := State.view_congr (by simp)
@[simp] theorem State.trapTo_view (s : State) (a : Word) : (s.trapTo a).view = .shadow := rfl
@[simp] theorem State.returnFromTrap_view (s : State) : s.returnFromTrap.view = .normal := rfl

/-! ### Flag banks after an update -/

@[simp] theorem State.setPcOf_flagsOf (s : State) (v : View) (a : Word) (u : View) : (s.setPcOf v a).flagsOf u = s.flagsOf u := by cases u <;> simp [State.flagsOf]
@[simp] theorem State.setPc_flagsOf (s : State) (a : Word) (u : View) : (s.setPc a).flagsOf u = s.flagsOf u := by cases u <;> simp [State.flagsOf]
@[simp] theorem State.advance_flagsOf (s : State) (u : View) : (s.advance).flagsOf u = s.flagsOf u := by cases u <;> simp [State.flagsOf]
@[simp] theorem State.writeReg_flagsOf (s : State) (r : Reg) (v : Word) (u : View) : (s.writeReg r v).flagsOf u = s.flagsOf u := by cases u <;> simp [State.flagsOf]
@[simp] theorem State.writePair_flagsOf (s : State) (rd : Reg) (p : DWord) (u : View) : (s.writePair rd p).flagsOf u = s.flagsOf u := by cases u <;> simp [State.flagsOf]
@[simp] theorem State.setSeg_flagsOf (s : State) (g : Seg) (v : Word) (u : View) : (s.setSeg g v).flagsOf u = s.flagsOf u := by cases u <;> simp [State.flagsOf]
@[simp] theorem State.store_flagsOf (s : State) (pa : PhysAddr) (v : Word) (u : View) : (s.store pa v).flagsOf u = s.flagsOf u := by cases u <;> simp [State.flagsOf]
@[simp] theorem State.trapTo_flagsOf (s : State) (a : Word) (u : View) : (s.trapTo a).flagsOf u = s.flagsOf u := by cases u <;> simp [State.flagsOf]
@[simp] theorem State.returnFromTrap_flagsOf (s : State) (u : View) : (s.returnFromTrap).flagsOf u = s.flagsOf u := by cases u <;> simp [State.flagsOf]
@[simp] theorem State.sampled_flagsOf (s : State) (u : View) : (s.sampled).flagsOf u = s.flagsOf u := by cases u <;> simp [State.flagsOf]

@[simp] theorem State.setFlagsOf_flagsOf (s : State) (v u : View) (f : FlagBank) :
    (s.setFlagsOf v f).flagsOf u = if u = v then f else s.flagsOf u := by
  cases u <;> cases v <;> rfl

@[simp] theorem State.setFlags_flagsOf (s : State) (u : View) (f : FlagBank) :
    (s.setFlags f).flagsOf u = if u = s.view then f else s.flagsOf u := by
  simp [State.setFlags]

@[simp] theorem State.writePswLow_flagsOf (s : State) (v u : View) (p : Byte) :
    (s.writePswLow v p).flagsOf u = if u = v then FlagBank.ofByte p else s.flagsOf u := by
  cases u <;> cases v <;> rfl

/-! ### Program counters after an update -/

@[simp] theorem State.setFlagsOf_pcOf (s : State) (v : View) (f : FlagBank) (u : View) : (s.setFlagsOf v f).pcOf u = s.pcOf u := by cases u <;> simp [State.pcOf]
@[simp] theorem State.setFlags_pcOf (s : State) (f : FlagBank) (u : View) : (s.setFlags f).pcOf u = s.pcOf u := by cases u <;> simp [State.pcOf]
@[simp] theorem State.setSeg_pcOf (s : State) (g : Seg) (v : Word) (u : View) : (s.setSeg g v).pcOf u = s.pcOf u := by cases u <;> simp [State.pcOf]
@[simp] theorem State.store_pcOf (s : State) (pa : PhysAddr) (v : Word) (u : View) : (s.store pa v).pcOf u = s.pcOf u := by cases u <;> simp [State.pcOf]
@[simp] theorem State.returnFromTrap_pcOf (s : State) (u : View) : (s.returnFromTrap).pcOf u = s.pcOf u := by cases u <;> simp [State.pcOf]
@[simp] theorem State.writePswLow_pcOf (s : State) (v : View) (p : Byte) (u : View) : (s.writePswLow v p).pcOf u = s.pcOf u := by cases u <;> simp [State.pcOf]
@[simp] theorem State.sampled_pcOf (s : State) (u : View) : (s.sampled).pcOf u = s.pcOf u := by cases u <;> simp [State.pcOf]

@[simp] theorem State.setPcOf_pcOf (s : State) (v u : View) (a : Word) :
    (s.setPcOf v a).pcOf u = if u = v then a else s.pcOf u := by
  cases u <;> cases v <;> rfl

@[simp] theorem State.setPc_pcOf (s : State) (u : View) (a : Word) :
    (s.setPc a).pcOf u = if u = s.view then a else s.pcOf u := by
  simp [State.setPc]

@[simp] theorem State.advance_pcOf (s : State) (u : View) :
    s.advance.pcOf u = if u = s.view then s.pc + 1 else s.pcOf u := by
  simp [State.advance]

@[simp] theorem State.trapTo_pcOf (s : State) (u : View) (a : Word) :
    (s.trapTo a).pcOf u = if u = .shadow then a else s.pcOf u := by
  cases u <;> rfl

theorem State.writeReg_pcOf (s : State) (u : View) (r : Reg) (v : Word) :
    (s.writeReg r v).pcOf u = if r = Reg.r15 ∧ u = s.view then v else s.pcOf u := by
  unfold State.writeReg
  split
  · next h =>
    have : r ≠ Reg.r15 := by rintro rfl; exact absurd h (by decide)
    rw [if_neg fun h' => this h'.1]
    cases u <;> rfl
  · next h =>
    have : r = Reg.r15 := by
      apply BitVec.eq_of_toNat_eq
      have := r.isLt
      simp [Reg.r15] at *
      omega
    simp [this]

/-! ### Registers after an update -/

/-- A write of R0 to R14 changes that register, a write of R15 none (R39). -/
theorem State.writeReg_regs (s : State) (r : Reg) (v : Word) (k : Nat) (h : k < 15) :
    (s.writeReg r v).regs[k] = if r.toNat = k then v else s.regs[k] := by
  unfold State.writeReg
  split
  · simp [Vector.getElem_set]
  · next hr =>
    have : r.toNat ≠ k := by omega
    simp [this]

theorem State.readReg_r15 (s : State) : s.readReg Reg.r15 = s.pc := by
  simp [State.readReg, Reg.r15, params]

theorem State.readReg_lt (s : State) (r : Reg) (h : r.toNat < 15) : s.readReg r = s.regs[r.toNat] := by
  simp [State.readReg, h]

/-- x[r] depends on R0 to R14 and the active program counter alone. -/
theorem State.readReg_congr {s t : State} (hr : t.regs = s.regs) (hp : t.pc = s.pc) (r : Reg) :
    t.readReg r = s.readReg r := by
  simp [State.readReg, hr, hp]

/-! ### Segment registers after an update -/

@[simp] theorem heldBySegment_eq (v : Word) : heldBySegment v = v := rfl

@[simp] theorem State.setSeg_segOf (s : State) (g u : Seg) (v : Word) :
    (s.setSeg g v).segOf u = if u = g then v else s.segOf u := by
  cases g <;> cases u <;> rfl

/-- phys(s, ea) depends on the segment registers alone (R72). -/
theorem State.phys_congr {s t : State} (h : SegsKept s t) (g : Seg) (ea : Word) : t.phys g ea = s.phys g ea := by
  obtain ⟨h1, h2, h3, h4⟩ := h
  cases g <;> simp [State.phys, State.segOf, *]

end Sys2Proof.Machine
end

