-- ==== Sys2Proof/Laws/Memory.lean ====
section
/-! SUPPORT. Memory: a read after a write, and that every memory operation keeps the canonical form. -/

namespace Sys2Proof.Machine

/-! ### One byte -/

theorem Memory.find_insert (m : Memory) (a x : Nat) (b : Byte) :
    (m.insert a b).find x = if x = a then some b else m.find x := by
  induction m with
  | nil => simp [Memory.insert, Memory.find, eq_comm]
  | cons cell rest ih =>
    obtain ⟨k, c⟩ := cell
    simp only [Memory.insert]
    split_ifs <;> simp_all [Memory.find] <;> grind

/-- A byte store changes the byte stored to and no other. -/
theorem Memory.readByte_writeByte (m : Memory) (a x : Nat) (b : Byte) :
    (m.writeByte a b).readByte x = if x = a then some b else m.readByte x := by
  simp only [Memory.writeByte, Memory.readByte, Memory.find_insert]
  split_ifs <;> rfl

/-! ### The canonical form -/

theorem Memory.risesAbove_insert {m : Memory} {low : Option Nat} {a : Nat} {b : Byte}
    (h : m.risesAbove low = true) (ha : ∀ l, low = some l → l < a) : (m.insert a b).risesAbove low = true := by
  induction m generalizing low with
  | nil => cases low <;> simp_all [Memory.insert, Memory.risesAbove]
  | cons cell rest ih =>
    obtain ⟨k, c⟩ := cell
    simp only [Memory.insert]
    split_ifs with h1 h2
    · cases low <;> simp_all [Memory.risesAbove]
    · cases low <;> simp_all [Memory.risesAbove]
    · have hk : k < a := by omega
      cases low <;> simp_all [Memory.risesAbove]

theorem Memory.mem_insert {m : Memory} {a : Nat} {b : Byte} {cell : Host.Cell} (h : cell ∈ m.insert a b) :
    cell = (a, b) ∨ cell ∈ m := by
  induction m with
  | nil => simpa [Memory.insert] using h
  | cons head rest ih =>
    obtain ⟨k, c⟩ := head
    simp only [Memory.insert] at h
    split_ifs at h <;> simp only [List.mem_cons] at * <;> tauto

theorem Memory.wf_writeByte {m : Memory} {a : Nat} (b : Byte) (h : m.wf = true) (ha : a < cellCount) :
    (m.writeByte a b).wf = true := by
  simp only [Memory.wf, Bool.and_eq_true, List.all_eq_true, decide_eq_true_eq] at *
  refine ⟨Memory.risesAbove_insert h.1 (by simp), fun c hc => ?_⟩
  rcases Memory.mem_insert hc with rfl | hc
  · exact ha
  · exact h.2 c hc

/-- Both cells of a word lie inside the address space. -/
theorem cell_lt (pa : PhysAddr) : 2 * pa.toNat + 1 < cellCount := by
  have := pa.isLt
  simp only [cellCount]
  omega

theorem Memory.wf_writeWord {m : Memory} (pa : PhysAddr) (v : Word) (h : m.wf = true) :
    (m.writeWord pa v).wf = true := by
  have := cell_lt pa
  exact Memory.wf_writeByte _ (Memory.wf_writeByte _ h (by omega)) this

theorem State.reset_mem_wf : State.reset.mem.wf = true := by decide

/-! ### One word -/

theorem Word.ofBytes_bits (v : Word) : Word.ofBytes (bits v 0 8) (bits v 8 8) = v := by
  apply BitVec.eq_of_getLsbD_eq
  intro i hi
  simp only [Word.ofBytes, bits, BitVec.getLsbD_append, BitVec.getLsbD_extractLsb']
  split_ifs with h
  · simp [h]
  · have h1 : i - 8 < 8 := by omega
    have h2 : 8 + (i - 8) = i := by omega
    simp [h1, h2]

/-- At the memory map in use every word is there (R80). -/
theorem Memory.readWord_eq (m : Memory) (pa : PhysAddr) : m.readWord pa = m.wordAt pa := rfl

/-- A word store changes the two bytes of the word and no other. -/
theorem Memory.readByte_writeWord (m : Memory) (pa : PhysAddr) (v : Word) (x : Nat) :
    (m.writeWord pa v).readByte x =
      if x = 2 * pa.toNat + 1 then some (bits v 8 8) else if x = 2 * pa.toNat then some (bits v 0 8) else m.readByte x := by
  simp only [Memory.writeWord, Memory.readByte_writeByte]

theorem Memory.readWord_writeWord_self (m : Memory) (pa : PhysAddr) (v : Word) :
    (m.writeWord pa v).readWord pa = some v := by
  have e : ¬ 2 * pa.toNat = 2 * pa.toNat + 1 := by omega
  simp only [Memory.readWord_eq, Memory.wordAt, Memory.readByte_writeWord, if_neg e, if_true]
  rw [Word.ofBytes_bits]

theorem Memory.readWord_writeWord_other (m : Memory) {pa qa : PhysAddr} (v : Word) (hq : qa ≠ pa) :
    (m.writeWord pa v).readWord qa = m.readWord qa := by
  have hne : qa.toNat ≠ pa.toNat := fun e => hq (BitVec.eq_of_toNat_eq e)
  have e1 : ¬ 2 * qa.toNat = 2 * pa.toNat + 1 := by omega
  have e2 : ¬ 2 * qa.toNat = 2 * pa.toNat := by omega
  have e3 : ¬ 2 * qa.toNat + 1 = 2 * pa.toNat + 1 := by omega
  have e4 : ¬ 2 * qa.toNat + 1 = 2 * pa.toNat := by omega
  simp only [Memory.readWord_eq, Memory.wordAt, Memory.readByte_writeWord, if_neg e1, if_neg e2, if_neg e3, if_neg e4]

/-- A read after a store: the word stored at its address, every other word as before (R83). -/
theorem Memory.readWord_writeWord (m : Memory) (pa qa : PhysAddr) (v : Word) :
    (m.writeWord pa v).readWord qa = if qa = pa then some v else m.readWord qa := by
  split_ifs with h
  · rw [h, Memory.readWord_writeWord_self]
  · exact Memory.readWord_writeWord_other m v h

/-! ### The vector table -/

theorem Memory.vector_eq (m : Memory) (k : Nat) : m.vector k = m.readWord (BitVec.ofNat 20 k) := rfl

/-- The memory after reset defines no word (R302). -/
theorem reset_readWord (pa : PhysAddr) : State.reset.mem.readWord pa = none := rfl

end Sys2Proof.Machine
end

