-- ==== Sys2Proof/Laws/Ops.lean ====
section
/-! SUPPORT. One lemma for each shared operation that says once what it can do. At the configuration in use `raise`, `raiseReserved` and `raiseDivZero` are the fault itself. -/

namespace Sys2Proof.Machine

/-! ### The parameters in use -/

@[simp] theorem raise_eq (f : Fault) (s : State) : raise f s = .fault f := rfl
@[simp] theorem raiseReserved_eq (w : Word) (s : State) : raiseReserved w s = .fault (.reserved w) := rfl
@[simp] theorem raiseDivZero_eq (s : State) : raiseDivZero s = .fault .divideByZero := rfl
@[simp] theorem physOf_eq (seg ea : Word) : physOf seg ea = (seg.setWidth 20 <<< 4) + ea.setWidth 20 := rfl
@[simp] theorem jumpTarget_eq (a : Word) (t : BitVec 8) : jumpTarget a t = a + sext t := rfl
@[simp] theorem ldiValue_eq (imm : BitVec 15) : ldiValue imm = zext imm := rfl
@[simp] theorem subCarry_eq (a b : Word) : subCarry a b = decide (a < b) := rfl
@[simp] theorem ljmpSegment_eq : ljmpSegment = .ds := rfl
@[simp] theorem params_mulFn (a b : Word) : params.mulFn a b = mulUnsigned a b := rfl
@[simp] theorem params_divFn (n : DWord) (b : Word) : params.divFn n b = divUnsigned n b := rfl
@[simp] theorem State.advancing_eq (s : State) (b : Bool) (k : State → Result State) : s.advancing b k = k s.advance := rfl
@[simp] theorem State.withSum_eq (s : State) (a b : Word) (k : Word → Result State) : s.withSum a b k = k (a + b) := rfl
@[simp] theorem State.access_eq (s : State) (g : Seg) (ea : Word) (k : PhysAddr → Result State) :
    s.access g ea k = k (s.phys g ea) := rfl
@[simp] theorem State.withDataAddr_eq (s : State) (g : Seg) (base : Reg) (offset : BitVec 2) (k : PhysAddr → Result State) :
    s.withDataAddr g base offset k = k (s.dataAddr g base offset) := rfl
@[simp] theorem State.storable_eq (s : State) (pa : PhysAddr) (r : Result State) : s.storable pa r = r := rfl
@[simp] theorem State.trapRefused_eq (s : State) : s.trapRefused = false := rfl
@[simp] theorem targetOverflows_eq (a : Word) (t : BitVec 8) : targetOverflows a t = false := rfl
@[simp] theorem maskRefused_eq (mask : BitVec 8) : maskRefused mask = false := rfl
@[simp] theorem moveRefused_eq (g : Seg) : moveRefused g = false := rfl
@[simp] theorem haltedNext_eq (irq : Bool) (s : State) : haltedNext irq s = .next s := rfl

theorem State.storeHazard_iff (s : State) (pa : PhysAddr) :
    s.storeHazard pa = true ↔ pa = s.phys .cs (s.pc + 1) ∨ pa = s.phys .cs (s.pc + 2) := by
  simp [State.storeHazard, params]

theorem leftCarry_eq (f : FlagBank) (x : Word) (n : Nat) :
    leftCarry f x n = if n = 0 then f.c else x.getLsbD (16 - n) := rfl

theorem rightCarry_eq (f : FlagBank) (x : Word) (n : Nat) :
    rightCarry f x n = if n = 0 then f.c else x.getLsbD (n - 1) := rfl

theorem leftWithCarry_eq (c : Bool) (x : Word) (n : Nat) : leftWithCarry c x n = shl x n ||| carryAt c 0 := rfl

theorem rightWithCarry_eq (c : Bool) (x shifted : Word) (n : Nat) :
    rightWithCarry c x shifted n = shifted ||| carryAt c 15 := rfl

/-! ### The meanings at the parameters in use

The checks that parameters not in use add are not there; what is left is the rule itself. -/

theorem exec_ld (g : Seg) (rd base : Reg) (offset : BitVec 2) (s : State) :
    exec (.ld g rd base offset) s = s.load (s.dataAddr g base offset) fun v => s.writeNext rd v := rfl

theorem exec_st (g : Seg) (rd base : Reg) (offset : BitVec 2) (s : State) :
    exec (.st g rd base offset) s =
      if s.storeHazard (s.dataAddr g base offset) then .fault (.fetchHazard (s.dataAddr g base offset))
      else .next (s.advance.store (s.dataAddr g base offset) (s.readReg rd)) := rfl

theorem exec_ljmp (rs : Reg) (s : State) :
    exec (.ljmp rs) s = s.load (s.phys .ds (s.readReg rs)) fun newCs =>
      s.load (s.phys .ds (s.readReg rs + 1)) fun newPc =>
        .next ((s.advance.writeReg Reg.r15 newPc).setSeg .cs newCs) := rfl

theorem exec_set (mask : BitVec 8) (s : State) :
    exec (.set mask) s = .next (s.advance.writePswLow s.view (bits (s.psw s.view) 0 8 ||| mask)) := rfl

theorem exec_clr (mask : BitVec 8) (s : State) :
    exec (.clr mask) s = .next (s.advance.writePswLow s.view (bits (s.psw s.view) 0 8 &&& ~~~mask)) := rfl

theorem exec_mvsToSeg (rd : Reg) (g : Seg) (s : State) :
    exec (.mvsToSeg rd g) s = .next (s.advance.setSeg g (s.readReg rd)) := rfl

theorem exec_nop (s : State) : exec .nop s = .next s.advance := rfl
theorem exec_hlt (s : State) : exec .hlt s = .next { s.advance with halted := true } := rfl
theorem exec_swi (s : State) : exec .swi s = enterTrap 1 s.advance := rfl
theorem exec_reti (s : State) : exec .reti s = .next s.advance.returnFromTrap := rfl

/-! ### What is kept -/

theorem RegsKept.refl (s : State) : RegsKept s s := rfl
theorem FlagsKept.refl (s : State) : FlagsKept s s := ⟨rfl, rfl⟩
theorem ModeKept.refl (s : State) : ModeKept s s := ⟨rfl, rfl, rfl, rfl, rfl⟩
theorem SegsKept.refl (s : State) : SegsKept s s := ⟨rfl, rfl, rfl, rfl⟩
theorem MemKept.of_eq {s t : State} (h : t.mem = s.mem) : MemKept s t := fun a => by rw [h]

/-! ### Writing a register -/

theorem State.advance_pc_view (s : State) : s.advance.pcOf s.view = s.pc + 1 := by simp

theorem State.writeReg_regWritten (s t : State) (h : t.regs = s.regs) (rd : Reg) (v : Word) :
    RegWritten s (t.writeReg rd v) rd v := by
  intro k hk
  rw [State.writeReg_regs]
  simp only [h]

/-- After `advance`, a register write leaves the program counter of the view that ran at A + 1, or at the value where the register is R15 (R37, R39). -/
theorem State.writeReg_pcBecame (s t : State) (hv : t.view = s.view) (hp : PcBecame s t (s.pc + 1)) (rd : Reg) (v : Word) :
    PcBecame s (t.writeReg rd v) (pcAfter s rd v) := by
  refine ⟨?_, ?_⟩
  · rw [State.writeReg_pcOf, hp.1, hv]
    unfold pcAfter
    by_cases h : rd = Reg.r15 <;> simp [h]
  · rw [State.writeReg_pcOf, hp.2, hv]
    simp

theorem State.advance_pcBecame (s : State) : PcBecame s s.advance (s.pc + 1) := by
  constructor <;> simp

/-- What `writeNext` can do: it answers a next state, in which register `rd` holds `v` and nothing else changed but the program counter. -/
theorem State.writeNext_spec (s : State) (rd : Reg) (v : Word) :
    ∃ t, s.writeNext rd v = .next t ∧ OnlyRegWritten s t rd v := by
  refine ⟨_, rfl, State.writeReg_regWritten s _ (by simp) rd v,
    State.writeReg_pcBecame s _ (by simp) s.advance_pcBecame rd v, ?_, ?_, ?_, MemKept.of_eq (by simp)⟩
  · exact ⟨by simp, by simp⟩
  · exact ⟨by simp, by simp, by simp, by simp⟩
  · exact ⟨by simp, by simp, by simp, by simp⟩

/-- `writeNext` to R15 writes nothing but the active program counter (R39). -/
theorem State.writeNext_r15_spec (s : State) (a : Word) :
    ∃ t, s.writeNext Reg.r15 a = .next t ∧ OnlyPcWritten s t a := by
  obtain ⟨t, ht, hr, hp, hrest⟩ := s.writeNext_spec Reg.r15 a
  refine ⟨t, ht, ?_, by simpa [pcAfter] using hp, hrest⟩
  apply Vector.ext
  intro k hk
  have hne : ¬ (15 = k) := by omega
  simpa [Reg.r15, hne] using hr k hk

/-- `advance` alone: nothing but the active program counter changes, to A + 1. -/
theorem State.advance_spec (s : State) : OnlyPcWritten s s.advance (s.pc + 1) :=
  ⟨by simp [RegsKept], s.advance_pcBecame, ⟨by simp, by simp⟩, ⟨by simp, by simp, by simp, by simp⟩,
    ⟨by simp, by simp, by simp, by simp⟩, MemKept.of_eq (by simp)⟩

/-- What a conditional jump can do (R201): the target where it is taken, A + 1 where it is not. -/
theorem State.jumpIf_spec (s : State) (taken : Bool) (target : BitVec 8) :
    ∃ t, s.jumpIf taken target = .next t ∧
      OnlyPcWritten s t (if taken then s.pc + sext target else s.pc + 1) := by
  cases taken with
  | true => exact s.writeNext_r15_spec _
  | false => exact ⟨_, rfl, s.advance_spec⟩

/-! ### ALU, pair and shift instructions -/

theorem State.advance_setFlags_flagsBecame (s : State) (f : FlagBank) : FlagsBecame s (s.advance.setFlags f) f := by
  constructor <;> simp

theorem State.advance_setFlags_pcBecame (s : State) (f : FlagBank) : PcBecame s (s.advance.setFlags f) (s.pc + 1) := by
  constructor <;> simp

/-- What `aluNext` can do (R160, R161). -/
theorem State.aluNext_spec (s : State) (rd : Reg) (w : Bool) (r : Word) (f : FlagBank) :
    ∃ t, s.aluNext rd w r f = .next t ∧ RegAndFlagsWritten s t rd w r f := by
  refine ⟨_, rfl, ?_, ?_, ?_, ?_, ?_⟩
  · cases w with
    | true =>
      exact ⟨State.writeReg_regWritten s _ (by simp) rd r,
        State.writeReg_pcBecame s _ (by simp) (s.advance_setFlags_pcBecame f) rd r⟩
    | false => exact ⟨by simp [RegsKept], s.advance_setFlags_pcBecame f⟩
  · cases w <;> constructor <;> simp
  · cases w <;> exact ⟨by simp, by simp, by simp, by simp⟩
  · cases w <;> exact ⟨by simp, by simp, by simp, by simp⟩
  · cases w <;> exact MemKept.of_eq (by simp)

/-- What `shiftNext` can do (R180, R183). -/
theorem State.shiftNext_spec (s : State) (rd : Reg) (r : Word) (c : Bool) :
    ∃ t, s.shiftNext rd r c = .next t ∧ RegAndFlagsWritten s t rd true r (s.flags.afterShift r c) :=
  s.aluNext_spec rd true r (s.flags.afterShift r c)

theorem Reg.toNat_succ_of_even {rd : Reg} (h : rd.isEven = true) : (rd + 1).toNat = rd.toNat + 1 := by
  revert h; revert rd; decide

theorem Reg.succ_eq_r15_iff (rd : Reg) : rd + 1 = Reg.r15 ↔ rd = 14 := by
  revert rd; decide

theorem Reg.even_ne_r15 {rd : Reg} (h : rd.isEven = true) : rd ≠ Reg.r15 := by
  rintro rfl; exact absurd h (by decide)

/-- What `pairNext` can do (R171, R173). -/
theorem State.pairNext_spec (s : State) (rd : Reg) (he : rd.isEven = true) (w : Bool) (p : DWord) :
    ∃ t, s.pairNext rd w p = .next t ∧
      PairAndFlagsWritten s t rd w (p.extractLsb' 16 16) (p.extractLsb' 0 16) (s.flags.setNZ32 p) := by
  refine ⟨_, rfl, ?_, ?_, ?_, ?_, ?_⟩
  · cases w with
    | true =>
      refine ⟨?_, ?_, ?_⟩
      · intro k hk
        simp only [if_true, State.writePair, State.writeReg_regs, Reg.toNat_succ_of_even he, State.setFlags_regs,
          State.advance_regs]
        split_ifs <;> first | rfl | omega
      · simp only [if_true, State.writePair, State.writeReg_pcOf, Reg.succ_eq_r15_iff, Reg.even_ne_r15 he]
        simp
      · simp only [if_true, State.writePair, State.writeReg_pcOf]
        simp
    | false => exact ⟨by simp [RegsKept], s.advance_setFlags_pcBecame _⟩
  · cases w <;> constructor <;> simp
  · cases w <;> exact ⟨by simp, by simp, by simp, by simp⟩
  · cases w <;> exact ⟨by simp, by simp, by simp, by simp⟩
  · cases w <;> exact MemKept.of_eq (by simp)

theorem State.withPair_even (s : State) {rd : Reg} (h : rd.isEven = true) (f : Reg → Result State) :
    s.withPair rd f = f rd := by
  simp [State.withPair, pairBase, h]

theorem State.withPair_odd (s : State) {rd : Reg} (h : rd.isEven = false) (f : Reg → Result State) :
    s.withPair rd f = .fault (.oddPair rd) := by
  simp [State.withPair, pairBase, h, params]

/-! ### Memory reads and stores -/

theorem State.load_some {s : State} {pa : PhysAddr} {v : Word} (h : s.mem.readWord pa = some v) (f : Word → Result State) :
    s.load pa f = f v := by
  simp [State.load, h]

theorem State.load_none {s : State} {pa : PhysAddr} (h : s.mem.readWord pa = none) (f : Word → Result State) :
    s.load pa f = .fault (.unspecified pa) := by
  simp [State.load, h]

/-- A store writes the word at `pa` and no byte outside it (R79, R152). -/
theorem State.store_wordStored (s t : State) (h : t.mem = s.mem) (pa : PhysAddr) (v : Word) :
    WordStored s (t.store pa v) pa v := by
  refine ⟨by simp [Memory.readWord_writeWord_self], fun a h0 h1 => ?_⟩
  simp [Memory.readByte_writeWord, h0, h1, h]

/-! ### Traps -/

/-- What trap entry can do (R270, R271, R302). -/
theorem enterTrap_eq (k : Nat) (s : State) :
    enterTrap k s = match s.mem.readWord (BitVec.ofNat 20 k) with
      | some target => .next (s.trapTo target)
      | none => .fault (.unspecified (BitVec.ofNat 20 k)) := rfl

/-- What the reset event can do (R300, R302). -/
theorem takeReset_eq (s : State) :
    takeReset s = match s.mem.readWord 0 with
      | some target => .next { State.reset with mem := s.mem, inputs := s.inputs, pcNormal := target }
      | none => .fault (.unspecified 0) := rfl

/-! ### The status word -/

/-- The sixteen bits of psw(v) (R42, R43). -/
theorem State.psw_getLsbD (s : State) (v : View) :
    (s.psw v).getLsbD 0 = (s.flagsOf v).n ∧ (s.psw v).getLsbD 1 = (s.flagsOf v).z ∧
    (s.psw v).getLsbD 2 = (s.flagsOf v).v ∧ (s.psw v).getLsbD 3 = (s.flagsOf v).c ∧
    (s.psw v).getLsbD 4 = s.sBit ∧ (s.psw v).getLsbD 5 = s.iBit ∧
    (s.psw v).getLsbD 6 = (s.flagsOf v).u6 ∧ (s.psw v).getLsbD 7 = (s.flagsOf v).u7 ∧
    bits (s.psw v) 8 8 = 0 := by
  rcases hf : s.flagsOf v with ⟨n, z, vv, c, u6, u7⟩
  simp only [State.psw, State.iOf_eq, hf]
  generalize s.iBit = i
  generalize s.sBit = sb
  clear hf
  revert n z vv c u6 u7 i sb
  decide

/-- Bit `k` of the byte SET computes (R220). -/
theorem getLsbD_psw_or (p : Word) (mask : Byte) {k : Nat} (hk : k < 8) :
    (bits p 0 8 ||| mask).getLsbD k = (p.getLsbD k || mask.getLsbD k) := by
  simp [bits, hk]

/-- Bit `k` of the byte CLR computes (R221). -/
theorem getLsbD_psw_andNot (p : Word) (mask : Byte) {k : Nat} (hk : k < 8) :
    (bits p 0 8 &&& ~~~mask).getLsbD k = (p.getLsbD k && !mask.getLsbD k) := by
  simp [bits, hk]

end Sys2Proof.Machine
end

