-- ==== Sys2Proof/Laws/Step.lean ====
section
/-! SUPPORT. What one step can do, said once: the boundary's cases, trap entry read backwards, and the status byte bit by bit. -/

namespace Sys2Proof.Machine

@[simp] theorem State.sampled_psw (s : State) (v : View) : s.sampled.psw v = s.psw v := by
  cases v <;> rfl

@[simp] theorem State.sampled_pc (s : State) : s.sampled.pc = s.pc := rfl
@[simp] theorem State.sampled_flags (s : State) : s.sampled.flags = s.flags := rfl
@[simp] theorem State.sampled_segOf (s : State) (g : Seg) : s.sampled.segOf g = s.segOf g := by cases g <;> rfl
@[simp] theorem State.sampled_readReg (s : State) (r : Reg) : s.sampled.readReg r = s.readReg r := rfl
@[simp] theorem State.sampled_fetch (s : State) : s.sampled.fetch = s.fetch := rfl

/-- Sampling takes this boundary's levels off the schedule and nothing else (level input, D22). -/
theorem State.sampled_eq (s : State) : s.sampled = { s with inputs := s.inputs.tail } := rfl

/-- What is requested and enabled (R265). -/
theorem State.irqTaken_eq (s : State) : s.irqTaken = (s.pins.irqLine && s.iBit) := rfl

/-- Trap entry read backwards: the vector word it found and the state it left (R270). -/
theorem enterTrap_next {k : Nat} {s t : State} (h : enterTrap k s = .next t) :
    ∃ target, s.mem.readWord (BitVec.ofNat 20 k) = some target ∧ t = s.trapTo target := by
  rw [enterTrap_eq] at h
  split at h
  · next target ht => exact ⟨target, ht, by cases h; rfl⟩
  · cases h

/-- Trap entry through a vector word whose content is known (R270, R271). -/
theorem enterTrap_of_vector {k : Nat} {s : State} {target : Word}
    (h : s.mem.readWord (BitVec.ofNat 20 k) = some target) : enterTrap k s = .next (s.trapTo target) := by
  simp [enterTrap_eq, h]

/-- Trap entry through a vector word that nothing defined (R302). -/
theorem enterTrap_of_undefined {k : Nat} {s : State} (h : s.mem.readWord (BitVec.ofNat 20 k) = none) :
    enterTrap k s = .fault (.unspecified (BitVec.ofNat 20 k)) := by
  simp [enterTrap_eq, h]

/-- The reset event read backwards: vector word 0 and the state it left (R300). -/
theorem takeReset_next {s t : State} (h : takeReset s = .next t) :
    ∃ target, s.mem.readWord 0 = some target ∧
      t = { State.reset with mem := s.mem, inputs := s.inputs, pcNormal := target } := by
  rw [takeReset_eq] at h
  split at h
  · next target ht => exact ⟨target, ht, by cases h; rfl⟩
  · cases h

/-- Where reset is high the step is the reset event (R267). -/
theorem step_reset {s : State} (h : s.pins.resetLine = true) : step s = takeReset s.sampled := by
  simp [step, cycle, h]

/-- A halted core's step (R252). -/
theorem step_halted {s : State} (hr : s.pins.resetLine = false) (h : s.halted = true) : step s = .next s.sampled := by
  simp [step, cycle, hr, h]

/-- Where an enabled request is found the step is trap entry through vector 2 (R265). -/
theorem step_irq {s : State} (hr : s.pins.resetLine = false) (hh : s.halted = false) (h : s.irqTaken = true) :
    step s = enterTrap 2 s.sampled := by
  simp [step, cycle, hr, hh, h]

/-- At a quiet boundary the step is the fetch and the instruction (R11). -/
theorem step_quiet {s : State} (h : s.QuietBoundary) : step s = fetchAndRun exec s.sampled := by
  obtain ⟨h1, h2, h3⟩ := h
  have hirq : s.irqTaken = false := by rcases h3 with h | h <;> simp [State.irqTaken, h]
  simp [step, cycle, h1, h2, hirq]

/-- What `fetchAndRun` can answer. -/
theorem fetchAndRun_eq (s : State) :
    fetchAndRun exec s = match s.fetch with
      | some w => exec (decodeWord w) s
      | none => .fault (.unspecified (s.phys .cs s.pc)) := by
  rw [fetchAndRun, State.access_eq, State.load, State.fetch]
  split <;> simp_all

/-- Everything a step that goes on can be: the reset event, a halted core, the acceptance of the interrupt, or one instruction (R11, R265, R267). -/
theorem step_next {s t : State} (h : step s = .next t) :
    (s.pins.resetLine = true ∧
      ∃ target, s.mem.readWord 0 = some target ∧
        t = { State.reset with mem := s.mem, inputs := s.inputs.tail, pcNormal := target }) ∨
    (s.pins.resetLine = false ∧ s.halted = true ∧ t = s.sampled) ∨
    (s.pins.resetLine = false ∧ s.halted = false ∧ s.irqTaken = true ∧
      ∃ target, s.mem.readWord 2 = some target ∧ t = s.sampled.trapTo target) ∨
    (s.pins.resetLine = false ∧ s.halted = false ∧ s.irqTaken = false ∧
      ∃ w, s.fetch = some w ∧ exec (decodeWord w) s.sampled = .next t) := by
  unfold step cycle at h
  by_cases h1 : s.pins.resetLine = true
  · refine .inl ⟨h1, ?_⟩
    simp only [h1, if_true] at h
    obtain ⟨target, ht, rfl⟩ := takeReset_next h
    exact ⟨target, ht, rfl⟩
  · rw [Bool.not_eq_true] at h1
    simp only [h1, Bool.false_eq_true, if_false] at h
    by_cases h2 : s.halted = true
    · simp only [h2, if_true, haltedNext_eq] at h
      cases h
      exact .inr (.inl ⟨h1, h2, rfl⟩)
    · rw [Bool.not_eq_true] at h2
      simp only [h2, Bool.false_eq_true, if_false] at h
      by_cases h3 : s.irqTaken = true
      · simp only [h3, if_true] at h
        obtain ⟨target, ht, rfl⟩ := enterTrap_next h
        exact .inr (.inr (.inl ⟨h1, h2, h3, target, ht, rfl⟩))
      · rw [Bool.not_eq_true] at h3
        simp only [h3, Bool.false_eq_true, if_false, fetchAndRun_eq] at h
        split at h
        · next w hw => exact .inr (.inr (.inr ⟨h1, h2, h3, w, hw, h⟩))
        · cases h

/-- Bit by bit, the byte that SET and CLR read (R43, R220). -/
theorem State.pswLow_getElem (s : State) (v : View) :
    (bits (s.psw v) 0 8)[0] = (s.flagsOf v).n ∧ (bits (s.psw v) 0 8)[1] = (s.flagsOf v).z ∧
    (bits (s.psw v) 0 8)[2] = (s.flagsOf v).v ∧ (bits (s.psw v) 0 8)[3] = (s.flagsOf v).c ∧
    (bits (s.psw v) 0 8)[4] = s.sBit ∧ (bits (s.psw v) 0 8)[5] = s.iBit ∧
    (bits (s.psw v) 0 8)[6] = (s.flagsOf v).u6 ∧ (bits (s.psw v) 0 8)[7] = (s.flagsOf v).u7 := by
  obtain ⟨h0, h1, h2, h3, h4, h5, h6, h7, -⟩ := s.psw_getLsbD v
  simp only [bits, BitVec.getElem_extractLsb', Nat.zero_add]
  exact ⟨h0, h1, h2, h3, h4, h5, h6, h7⟩

end Sys2Proof.Machine
end

