-- ==== Sys2Proof/Laws/Effect.lean ====
section
/-! SUPPORT. What an instruction that goes on can do, said once: the twelve shapes of its next state. A proof about all instructions goes over these shapes, not over the 54 meanings. -/

namespace Sys2Proof.Machine

/-- R44: the instruction writes no flag. -/
def NoFlags (i : Instr) : Prop :=
  i.flagWrites = ⟨false, false, false, false⟩

/-- The shapes of the next state `exec i s` can answer. -/
inductive Effect (s : State) : Instr → State → Prop where
  /-- One register is written, R15 being a jump. -/
  | register (i : Instr) (rd : Reg) (v : Word) (h : NoFlags i) : Effect s i (s.advance.writeReg rd v)
  /-- Nothing but the program counter changes. -/
  | advance (i : Instr) (h : NoFlags i) : Effect s i s.advance
  /-- An ALU or shift instruction: the flags R44 lists, and a register if `w`. -/
  | arithmetic (i : Instr) (rd : Reg) (w : Bool) (r : Word) (f : FlagBank) (hn : i.flagWrites.n = true)
      (hz : i.flagWrites.z = true) (hv : i.flagWrites.v = false → f.v = s.flags.v)
      (hc : i.flagWrites.c = false → f.c = s.flags.c) (hu6 : f.u6 = s.flags.u6) (hu7 : f.u7 = s.flags.u7) :
      Effect s i (if w then (s.advance.setFlags f).writeReg rd r else s.advance.setFlags f)
  /-- MUL and DIV. -/
  | pair (i : Instr) (rd : Reg) (w : Bool) (p : DWord) (h : i.flagWrites = ⟨true, true, false, false⟩) :
      Effect s i (if w then (s.advance.setFlags (s.flags.setNZ32 p)).writePair rd p
        else s.advance.setFlags (s.flags.setNZ32 p))
  | store (seg : Seg) (rd base : Reg) (offset : BitVec 2) :
      Effect s (.st seg rd base offset) (s.advance.store (s.dataAddr seg base offset) (s.readReg rd))
  | longJump (rs : Reg) (newCs newPc : Word) (h : s.mem.readWord (s.phys .ds (s.readReg rs)) = some newCs)
      (h' : s.mem.readWord (s.phys .ds (s.readReg rs + 1)) = some newPc) :
      Effect s (.ljmp rs) ((s.advance.writeReg Reg.r15 newPc).setSeg .cs newCs)
  | setMask (mask : BitVec 8) :
      Effect s (.set mask) (s.advance.writePswLow s.view (bits (s.psw s.view) 0 8 ||| mask))
  | clearMask (mask : BitVec 8) :
      Effect s (.clr mask) (s.advance.writePswLow s.view (bits (s.psw s.view) 0 8 &&& ~~~mask))
  | segment (rd : Reg) (seg : Seg) : Effect s (.mvsToSeg rd seg) (s.advance.setSeg seg (s.readReg rd))
  | halt : Effect s .hlt { s.advance with halted := true }
  | trap (target : Word) (h : s.mem.readWord 1 = some target) : Effect s .swi (s.advance.trapTo target)
  | trapReturn : Effect s .reti s.advance.returnFromTrap

theorem State.load_next {s t : State} {pa : PhysAddr} {f : Word → Result State} (h : s.load pa f = .next t) :
    ∃ v, s.mem.readWord pa = some v ∧ f v = .next t := by
  unfold State.load at h
  split at h
  · next v hv => exact ⟨v, hv, h⟩
  · cases h

theorem State.withPair_next {s t : State} {rd : Reg} {f : Reg → Result State} (h : s.withPair rd f = .next t) :
    rd.isEven = true ∧ f rd = .next t := by
  by_cases he : rd.isEven = true
  · rw [s.withPair_even he] at h
    exact ⟨he, h⟩
  · rw [Bool.not_eq_true] at he
    rw [s.withPair_odd he] at h
    cases h

theorem State.jumpIf_effect {i : Instr} {s t : State} {taken : Bool} {target : BitVec 8}
    (h : s.jumpIf taken target = .next t) (hi : NoFlags i) : Effect s i t := by
  unfold State.jumpIf at h
  split at h <;> cases h
  · exact .register _ _ _ hi
  · exact .advance _ hi

/-- Every next state of every instruction has one of the shapes. -/
theorem exec_effect {i : Instr} {s t : State} (h : exec i s = .next t) : Effect s i t := by
  cases i <;> dsimp only [exec] at h
  case st seg rd base offset =>
    unfold execSt at h
    dsimp only [State.withDataAddr_eq] at h
    split at h <;> cases h
    exact .store ..
  case ld =>
    obtain ⟨v, -, hv⟩ := State.load_next h
    cases hv
    exact .register _ _ _ rfl
  case ljmp =>
    obtain ⟨v, hv, h⟩ := State.load_next h
    obtain ⟨u, hu, h⟩ := State.load_next h
    cases h
    exact .longJump _ _ _ hv hu
  case mul =>
    obtain ⟨-, h⟩ := State.withPair_next h
    cases h
    exact .pair (.mul _ _ _) _ _ _ rfl
  case div =>
    obtain ⟨-, h⟩ := State.withPair_next h
    unfold State.divide at h
    split at h <;> cases h
    exact .pair (.div _ _ _) _ _ _ rfl
  case reservedMulOdd => cases h
  case reservedDivOdd => cases h
  case swi =>
    obtain ⟨a, ha, rfl⟩ := enterTrap_next h
    exact .trap _ (by simpa using ha)
  case set => cases h; exact .setMask _
  case clr => cases h; exact .clearMask _
  case mvsToSeg => cases h; exact .segment ..
  case hlt => cases h; exact .halt
  case reti => cases h; exact .trapReturn
  case nop => cases h; exact .advance _ rfl
  case add => cases h; exact .arithmetic (.add _ _ _) _ _ _ _ rfl rfl nofun nofun rfl rfl
  case sub => cases h; exact .arithmetic (.sub _ _ _) _ _ _ _ rfl rfl nofun nofun rfl rfl
  case and => cases h; exact .arithmetic (.and _ _ _) _ _ _ _ rfl rfl (fun _ => rfl) (fun _ => rfl) rfl rfl
  case or => cases h; exact .arithmetic (.or _ _ _) _ _ _ _ rfl rfl (fun _ => rfl) (fun _ => rfl) rfl rfl
  case xor => cases h; exact .arithmetic (.xor _ _ _) _ _ _ _ rfl rfl (fun _ => rfl) (fun _ => rfl) rfl rfl
  case sl => cases h; exact .arithmetic (.sl _ _) _ true _ _ rfl rfl (fun _ => rfl) nofun rfl rfl
  case sr => cases h; exact .arithmetic (.sr _ _) _ true _ _ rfl rfl (fun _ => rfl) nofun rfl rfl
  case sra => cases h; exact .arithmetic (.sra _ _) _ true _ _ rfl rfl (fun _ => rfl) nofun rfl rfl
  case ror => cases h; exact .arithmetic (.ror _ _) _ true _ _ rfl rfl (fun _ => rfl) nofun rfl rfl
  case slc => cases h; exact .arithmetic (.slc _ _) _ true _ _ rfl rfl (fun _ => rfl) nofun rfl rfl
  case src => cases h; exact .arithmetic (.src _ _) _ true _ _ rfl rfl (fun _ => rfl) nofun rfl rfl
  case sac => cases h; exact .arithmetic (.sac _ _) _ true _ _ rfl rfl (fun _ => rfl) nofun rfl rfl
  case roc => cases h; exact .arithmetic (.roc _ _) _ true _ _ rfl rfl (fun _ => rfl) nofun rfl rfl
  all_goals first
    | exact State.jumpIf_effect h rfl
    | (cases h; done)
    | (cases h; exact .register _ _ _ rfl)

/-- No instruction writes the state of the parameter values not in use (log 8). -/
theorem exec_latches {i : Instr} {s t : State} (h : exec i s = .next t) : t.latches = s.latches := by
  cases exec_effect h with
  | arithmetic _ _ w => cases w <;> simp
  | pair _ _ w => cases w <;> simp
  | halt => exact s.advance_latches
  | _ => simp

end Sys2Proof.Machine
end

