-- ==== Sys2Proof/Laws/Encoding.lean ====
section
/-! SUPPORT. Arithmetic of the encoding: the number of a packed word, the bits and fields of a word read off its number, and the opcode group of a word whose top bits are known. -/

namespace Sys2Proof

/-! ### The layout in use -/

/-- A packed word is the number its fields spell, where that fits 16 bits. -/
theorem pack_toNat (l : List Field) (h : packNat l 0 < 65536) : (pack l).toNat = packNat l 0 := by
  simp only [pack, BitVec.toNat_ofNat]; omega

theorem fromLayout_eq (w : Word) : fromLayout w = w := rfl

theorem toLayout_eq (w : Word) : toLayout w = w := rfl

/-- The number of two fields side by side (R101). -/
theorem toNat_append_eq {n m : Nat} (x : BitVec n) (y : BitVec m) : (x ++ y).toNat = x.toNat * 2 ^ m + y.toNat := by
  rw [BitVec.toNat_append, ← Nat.shiftLeft_add_eq_or_of_lt y.isLt, Nat.shiftLeft_eq]

/-! ### Bits -/

theorem bit_eq (w : Word) (k : Nat) : w.getLsbD k = decide (w.toNat / 2^k % 2 = 1) := by
  rw [BitVec.getLsbD, Nat.testBit_eq_decide_div_mod_eq]

theorem bit_false {w : Word} {k : Nat} (h : w.toNat / 2^k % 2 = 0) : w.getLsbD k = false := by
  rw [bit_eq, h]; rfl

theorem bit_true {w : Word} {k : Nat} (h : w.toNat / 2^k % 2 = 1) : w.getLsbD k = true := by
  rw [bit_eq, h]; rfl

/-! ### The opcode group -/

/-- Exactly `n` ones stand below bit `m`. -/
theorem onesBelow_eq {w : Word} {n m : Nat} (hn : n < m) (h1 : ∀ k, m - n ≤ k → k < m → w.getLsbD k = true)
    (h0 : w.getLsbD (m - n - 1) = false) : onesBelow w m = n := by
  induction n generalizing m with
  | zero =>
    obtain ⟨m, rfl⟩ : ∃ j, m = j + 1 := ⟨m - 1, by omega⟩
    simp only [Nat.sub_zero, Nat.add_sub_cancel] at h0
    simp [onesBelow, h0]
  | succ n ih =>
    obtain ⟨m, rfl⟩ : ∃ j, m = j + 1 := ⟨m - 1, by omega⟩
    have hm := h1 m (by omega) (by omega)
    have := ih (m := m) (by omega) (fun k hk hk' => h1 k (by omega) (by omega)) (by convert h0 using 2; omega)
    simp [onesBelow, hm, this]

/-- At least `n` ones stand below bit `m`. -/
theorem le_onesBelow {w : Word} {n m : Nat} (hn : n ≤ m) (h1 : ∀ k, m - n ≤ k → k < m → w.getLsbD k = true) :
    n ≤ onesBelow w m := by
  induction n generalizing m with
  | zero => omega
  | succ n ih =>
    obtain ⟨m, rfl⟩ : ∃ j, m = j + 1 := ⟨m - 1, by omega⟩
    have hm := h1 m (by omega) (by omega)
    have := ih (m := m) (by omega) (fun k hk hk' => h1 k (by omega) (by omega))
    simp only [onesBelow, hm, if_true]
    omega

/-- A word whose top bits are `n` ones and a zero is of group `n` (R105). -/
theorem leadingOnes_of_top {w : Word} {n : Nat} (hn : n ≤ 12) (h : w.toNat / 2 ^ (15 - n) = 2 ^ (n + 1) - 2) :
    leadingOnes w = n := by
  apply onesBelow_eq (by omega)
  · intro k hk hk'
    apply bit_true
    interval_cases n <;> interval_cases k <;> omega
  · apply bit_false
    interval_cases n <;> omega

/-- A word whose top 13 bits are ones (R105). -/
theorem leadingOnes_of_ones {w : Word} (h : w.toNat / 8 = 8191) : 13 ≤ leadingOnes w := by
  apply le_onesBelow (by omega)
  intro k hk hk'
  apply bit_true
  interval_cases k <;> omega

/-! ### Fields -/

/-- A field read off the word's number. -/
theorem bits_eq (w : Word) (lo len : Nat) (v : BitVec len) (h : w.toNat / 2^lo % 2^len = v.toNat) : bits w lo len = v := by
  apply BitVec.eq_of_toNat_eq
  simp [bits, Nat.shiftRight_eq_div_pow, h]

theorem Seg.ofCode_code (g : Seg) : Seg.ofCode g.code = g := by cases g <;> rfl

theorem Seg.code_ofCode (c : BitVec 2) : (Seg.ofCode c).code = c := by
  revert c; decide

theorem Reg.isEven_eq_true (r : Reg) : r.isEven = true ↔ r.toNat % 2 = 0 := by
  revert r; decide

theorem Reg.isEven_eq_false (r : Reg) : r.isEven = false ↔ r.toNat % 2 = 1 := by
  revert r; decide

/-- A word with two given bytes is the word (R76, log 6). -/
theorem decode_toBytes (w : Word) (rest : List Byte) : decode (w.toBytes ++ rest) = .ok (decodeWord w, rest) := by
  have h : Word.ofBytes (bits w 0 8) (bits w 8 8) = w := by
    apply BitVec.eq_of_getLsbD_eq
    intro i hi
    simp only [Word.ofBytes, bits, BitVec.getLsbD_append, BitVec.getLsbD_extractLsb']
    split_ifs with h
    · simp [h]
    · have h1 : i - 8 < 8 := by omega
      have h2 : 8 + (i - 8) = i := by omega
      simp [h1, h2]
  simp [Word.toBytes, decode, h]

end Sys2Proof
end

