-- ==== Sys2Proof/Laws/PerInstr.lean ====
section
/-! SUPPORT. The family TableRow: the word of every well-formed instruction holds the fixed bits of its row of spec/opcode_table.json. -/

namespace Sys2Proof.Laws.TableRow

/-- The `fixed` entries of an instruction's row of the opcode table: highest bit, lowest bit, value. -/
def fixed : Instr → List (Nat × Nat × Nat)
  | .ldi _ => [(15, 15, 0)]
  | .ld _ _ _ _ => [(0, 0, 0), (15, 13, 4)]
  | .st _ _ _ _ => [(0, 0, 0), (15, 13, 5)]
  | .add _ _ _ => [(15, 10, 48)]
  | .sub _ _ _ => [(15, 10, 49)]
  | .and _ _ _ => [(15, 10, 50)]
  | .or _ _ _ => [(15, 10, 51)]
  | .xor _ _ _ => [(15, 10, 52)]
  | .mul _ _ _ => [(6, 6, 0), (15, 10, 53)]
  | .div _ _ _ => [(6, 6, 0), (15, 10, 54)]
  | .sl _ _ => [(5, 3, 0), (15, 10, 55)]
  | .sr _ _ => [(5, 3, 1), (15, 10, 55)]
  | .sra _ _ => [(5, 3, 2), (15, 10, 55)]
  | .ror _ _ => [(5, 3, 3), (15, 10, 55)]
  | .slc _ _ => [(5, 3, 4), (15, 10, 55)]
  | .src _ _ => [(5, 3, 5), (15, 10, 55)]
  | .sac _ _ => [(5, 3, 6), (15, 10, 55)]
  | .roc _ _ => [(5, 3, 7), (15, 10, 55)]
  | .jmp _ => [(0, 0, 0), (15, 9, 112)]
  | .jz _ => [(0, 0, 0), (15, 9, 113)]
  | .jnz _ => [(0, 0, 0), (15, 9, 114)]
  | .jc _ => [(0, 0, 0), (15, 9, 115)]
  | .jnc _ => [(0, 0, 0), (15, 9, 116)]
  | .jn _ => [(0, 0, 0), (15, 9, 117)]
  | .jnn _ => [(0, 0, 0), (15, 9, 118)]
  | .jrl _ => [(0, 0, 0), (15, 5, 1904)]
  | .lsi _ _ => [(15, 11, 30)]
  | .mov _ _ _ => [(15, 10, 62)]
  | .clr _ => [(15, 8, 252)]
  | .set _ => [(15, 8, 253)]
  | .mvsFromSeg _ _ => [(15, 6, 1020)]
  | .mvsToSeg _ _ => [(15, 6, 1021)]
  | .smvInactivePc _ => [(15, 4, 4088)]
  | .smvShadowPsw _ => [(15, 4, 4089)]
  | .smvNormalPsw _ => [(15, 4, 4090)]
  | .swb _ => [(15, 4, 4092)]
  | .inv _ => [(15, 4, 4093)]
  | .ljmp _ => [(15, 4, 4094)]
  | .nop => [(15, 0, 65520)]
  | .hlt => [(15, 0, 65521)]
  | .swi => [(15, 0, 65522)]
  | .reti => [(15, 0, 65523)]
  | .reservedLdSt _ => [(0, 0, 1), (15, 14, 2)]
  | .reservedMulOdd _ _ _ => [(6, 6, 1), (15, 10, 53)]
  | .reservedDivOdd _ _ _ => [(6, 6, 1), (15, 10, 54)]
  | .reservedJump _ => [(0, 0, 1), (15, 12, 14)]
  | .reservedJrl7 _ => [(0, 0, 0), (15, 8, 239)]
  | .reservedJrl6 _ => [(0, 0, 0), (15, 7, 477)]
  | .reservedJrl5 _ => [(0, 0, 0), (15, 6, 953)]
  | .reservedJrl4 _ => [(0, 0, 0), (15, 5, 1905)]
  | .reservedOpcode _ => [(15, 8, 254)]
  | .reservedSmv _ => [(15, 4, 4091)]
  | .reservedSys _ => [(15, 2, 16381)]
  | .reservedOnes _ => [(15, 3, 8191)]

/-- Every fixed entry of the row stands in the instruction's word. -/
def Statement (i : Instr) : Prop :=
  i.wellFormed = true → ∀ f ∈ fixed i, (encodeWord i).toNat / 2 ^ f.2.1 % 2 ^ (f.1 + 1 - f.2.1) = f.2.2

/-- A row whose word is the packing `l` needs only the arithmetic of `l`. -/
theorem of_pack {i : Instr} {l : List Field} (hw : encodeWord i = pack l) (hl : packNat l 0 < 65536)
    (h : i.wellFormed = true → ∀ f ∈ fixed i, packNat l 0 / 2 ^ f.2.1 % 2 ^ (f.1 + 1 - f.2.1) = f.2.2) : Statement i := by
  intro wf f hf
  rw [hw, pack_toNat l hl]
  exact h wf f hf

theorem ldi (imm : BitVec 15) : Statement (.ldi imm) := by
  have := imm.isLt
  refine of_pack (l := _) rfl ?_ ?_
  · simp [packNat]; omega
  · simp [fixed, packNat]; omega

theorem ld (seg : Seg) (rd : Reg) (base : Reg) (offset : BitVec 2) : Statement (.ld seg rd base offset) := by
  have := rd.isLt
  have := base.isLt
  have := offset.isLt
  cases seg
  all_goals
    refine of_pack (l := _) rfl ?_ ?_
    · simp [Seg.code, packNat]; omega
    · simp [fixed, Seg.code, packNat]; omega

theorem st (seg : Seg) (rd : Reg) (base : Reg) (offset : BitVec 2) : Statement (.st seg rd base offset) := by
  have := rd.isLt
  have := base.isLt
  have := offset.isLt
  cases seg
  all_goals
    refine of_pack (l := _) rfl ?_ ?_
    · simp [Seg.code, packNat]; omega
    · simp [fixed, Seg.code, packNat]; omega

theorem add (rd : Reg) (w : Bool) (b : Operand) : Statement (.add rd w b) := by
  have := rd.isLt
  rcases b with r | r
  all_goals
    have := r.isLt
    cases w
  all_goals
    refine of_pack (l := _) rfl ?_ ?_
    · simp [Operand.fields, packNat]; omega
    · simp [fixed, Operand.fields, packNat]; omega

theorem sub (rd : Reg) (w : Bool) (b : Operand) : Statement (.sub rd w b) := by
  have := rd.isLt
  rcases b with r | r
  all_goals
    have := r.isLt
    cases w
  all_goals
    refine of_pack (l := _) rfl ?_ ?_
    · simp [Operand.fields, packNat]; omega
    · simp [fixed, Operand.fields, packNat]; omega

theorem and (rd : Reg) (w : Bool) (b : Operand) : Statement (.and rd w b) := by
  have := rd.isLt
  rcases b with r | r
  all_goals
    have := r.isLt
    cases w
  all_goals
    refine of_pack (l := _) rfl ?_ ?_
    · simp [Operand.fields, packNat]; omega
    · simp [fixed, Operand.fields, packNat]; omega

theorem or (rd : Reg) (w : Bool) (b : Operand) : Statement (.or rd w b) := by
  have := rd.isLt
  rcases b with r | r
  all_goals
    have := r.isLt
    cases w
  all_goals
    refine of_pack (l := _) rfl ?_ ?_
    · simp [Operand.fields, packNat]; omega
    · simp [fixed, Operand.fields, packNat]; omega

theorem xor (rd : Reg) (w : Bool) (b : Operand) : Statement (.xor rd w b) := by
  have := rd.isLt
  rcases b with r | r
  all_goals
    have := r.isLt
    cases w
  all_goals
    refine of_pack (l := _) rfl ?_ ?_
    · simp [Operand.fields, packNat]; omega
    · simp [fixed, Operand.fields, packNat]; omega

theorem mul (rd : Reg) (w : Bool) (b : Operand) : Statement (.mul rd w b) := by
  have := rd.isLt
  rcases b with r | r
  all_goals
    have := r.isLt
    cases w
  all_goals
    refine of_pack (l := _) rfl ?_ ?_
    · simp [Operand.fields, packNat]; omega
    · intro h
      have h2 : rd.toNat % 2 = 0 := by simpa [Instr.wellFormed, Reg.isEven_eq_true, Reg.isEven_eq_false] using h
      simp [fixed, Operand.fields, packNat]; omega

theorem div (rd : Reg) (w : Bool) (b : Operand) : Statement (.div rd w b) := by
  have := rd.isLt
  rcases b with r | r
  all_goals
    have := r.isLt
    cases w
  all_goals
    refine of_pack (l := _) rfl ?_ ?_
    · simp [Operand.fields, packNat]; omega
    · intro h
      have h2 : rd.toNat % 2 = 0 := by simpa [Instr.wellFormed, Reg.isEven_eq_true, Reg.isEven_eq_false] using h
      simp [fixed, Operand.fields, packNat]; omega

theorem sl (rd : Reg) (count : BitVec 3) : Statement (.sl rd count) := by
  have := rd.isLt
  have := count.isLt
  refine of_pack (l := _) rfl ?_ ?_
  · simp [packNat]; omega
  · simp [fixed, packNat]; omega

theorem sr (rd : Reg) (count : BitVec 3) : Statement (.sr rd count) := by
  have := rd.isLt
  have := count.isLt
  refine of_pack (l := _) rfl ?_ ?_
  · simp [packNat]; omega
  · simp [fixed, packNat]; omega

theorem sra (rd : Reg) (count : BitVec 3) : Statement (.sra rd count) := by
  have := rd.isLt
  have := count.isLt
  refine of_pack (l := _) rfl ?_ ?_
  · simp [packNat]; omega
  · simp [fixed, packNat]; omega

theorem ror (rd : Reg) (count : BitVec 3) : Statement (.ror rd count) := by
  have := rd.isLt
  have := count.isLt
  refine of_pack (l := _) rfl ?_ ?_
  · simp [packNat]; omega
  · simp [fixed, packNat]; omega

theorem slc (rd : Reg) (count : BitVec 3) : Statement (.slc rd count) := by
  have := rd.isLt
  have := count.isLt
  refine of_pack (l := _) rfl ?_ ?_
  · simp [packNat]; omega
  · simp [fixed, packNat]; omega

theorem src (rd : Reg) (count : BitVec 3) : Statement (.src rd count) := by
  have := rd.isLt
  have := count.isLt
  refine of_pack (l := _) rfl ?_ ?_
  · simp [packNat]; omega
  · simp [fixed, packNat]; omega

theorem sac (rd : Reg) (count : BitVec 3) : Statement (.sac rd count) := by
  have := rd.isLt
  have := count.isLt
  refine of_pack (l := _) rfl ?_ ?_
  · simp [packNat]; omega
  · simp [fixed, packNat]; omega

theorem roc (rd : Reg) (count : BitVec 3) : Statement (.roc rd count) := by
  have := rd.isLt
  have := count.isLt
  refine of_pack (l := _) rfl ?_ ?_
  · simp [packNat]; omega
  · simp [fixed, packNat]; omega

theorem jmp (target : BitVec 8) : Statement (.jmp target) := by
  have := target.isLt
  refine of_pack (l := _) rfl ?_ ?_
  · simp [packNat]; omega
  · simp [fixed, packNat]; omega

theorem jz (target : BitVec 8) : Statement (.jz target) := by
  have := target.isLt
  refine of_pack (l := _) rfl ?_ ?_
  · simp [packNat]; omega
  · simp [fixed, packNat]; omega

theorem jnz (target : BitVec 8) : Statement (.jnz target) := by
  have := target.isLt
  refine of_pack (l := _) rfl ?_ ?_
  · simp [packNat]; omega
  · simp [fixed, packNat]; omega

theorem jc (target : BitVec 8) : Statement (.jc target) := by
  have := target.isLt
  refine of_pack (l := _) rfl ?_ ?_
  · simp [packNat]; omega
  · simp [fixed, packNat]; omega

theorem jnc (target : BitVec 8) : Statement (.jnc target) := by
  have := target.isLt
  refine of_pack (l := _) rfl ?_ ?_
  · simp [packNat]; omega
  · simp [fixed, packNat]; omega

theorem jn (target : BitVec 8) : Statement (.jn target) := by
  have := target.isLt
  refine of_pack (l := _) rfl ?_ ?_
  · simp [packNat]; omega
  · simp [fixed, packNat]; omega

theorem jnn (target : BitVec 8) : Statement (.jnn target) := by
  have := target.isLt
  refine of_pack (l := _) rfl ?_ ?_
  · simp [packNat]; omega
  · simp [fixed, packNat]; omega

theorem jrl (rs : Reg) : Statement (.jrl rs) := by
  have := rs.isLt
  refine of_pack (l := _) rfl ?_ ?_
  · simp [packNat]; omega
  · simp [fixed, packNat]; omega

theorem lsi (rd : Reg) (imm : BitVec 7) : Statement (.lsi rd imm) := by
  have := rd.isLt
  have := imm.isLt
  refine of_pack (l := _) rfl ?_ ?_
  · simp [packNat]; omega
  · simp [fixed, packNat]; omega

theorem mov (rd : Reg) (rs : Reg) (imm : BitVec 2) : Statement (.mov rd rs imm) := by
  have := rd.isLt
  have := rs.isLt
  have := imm.isLt
  refine of_pack (l := _) rfl ?_ ?_
  · simp [packNat]; omega
  · simp [fixed, packNat]; omega

theorem clr (mask : BitVec 8) : Statement (.clr mask) := by
  have := mask.isLt
  refine of_pack (l := _) rfl ?_ ?_
  · simp [packNat]; omega
  · simp [fixed, packNat]; omega

theorem set (mask : BitVec 8) : Statement (.set mask) := by
  have := mask.isLt
  refine of_pack (l := _) rfl ?_ ?_
  · simp [packNat]; omega
  · simp [fixed, packNat]; omega

theorem mvsFromSeg (rd : Reg) (seg : Seg) : Statement (.mvsFromSeg rd seg) := by
  have := rd.isLt
  cases seg
  all_goals
    refine of_pack (l := _) rfl ?_ ?_
    · simp [Seg.code, packNat]; omega
    · simp [fixed, Seg.code, packNat]; omega

theorem mvsToSeg (rd : Reg) (seg : Seg) : Statement (.mvsToSeg rd seg) := by
  have := rd.isLt
  cases seg
  all_goals
    refine of_pack (l := _) rfl ?_ ?_
    · simp [Seg.code, packNat]; omega
    · simp [fixed, Seg.code, packNat]; omega

theorem smvInactivePc (dst : Reg) : Statement (.smvInactivePc dst) := by
  have := dst.isLt
  refine of_pack (l := _) rfl ?_ ?_
  · simp [packNat]; omega
  · simp [fixed, packNat]; omega

theorem smvShadowPsw (dst : Reg) : Statement (.smvShadowPsw dst) := by
  have := dst.isLt
  refine of_pack (l := _) rfl ?_ ?_
  · simp [packNat]; omega
  · simp [fixed, packNat]; omega

theorem smvNormalPsw (dst : Reg) : Statement (.smvNormalPsw dst) := by
  have := dst.isLt
  refine of_pack (l := _) rfl ?_ ?_
  · simp [packNat]; omega
  · simp [fixed, packNat]; omega

theorem swb (rx : Reg) : Statement (.swb rx) := by
  have := rx.isLt
  refine of_pack (l := _) rfl ?_ ?_
  · simp [packNat]; omega
  · simp [fixed, packNat]; omega

theorem inv (rx : Reg) : Statement (.inv rx) := by
  have := rx.isLt
  refine of_pack (l := _) rfl ?_ ?_
  · simp [packNat]; omega
  · simp [fixed, packNat]; omega

theorem ljmp (rs : Reg) : Statement (.ljmp rs) := by
  have := rs.isLt
  refine of_pack (l := _) rfl ?_ ?_
  · simp [packNat]; omega
  · simp [fixed, packNat]; omega

theorem nop : Statement .nop := by
  refine of_pack (l := _) rfl ?_ ?_
  · simp [packNat]
  · simp [fixed, packNat]

theorem hlt : Statement .hlt := by
  refine of_pack (l := _) rfl ?_ ?_
  · simp [packNat]
  · simp [fixed, packNat]

theorem swi : Statement .swi := by
  refine of_pack (l := _) rfl ?_ ?_
  · simp [packNat]
  · simp [fixed, packNat]

theorem reti : Statement .reti := by
  refine of_pack (l := _) rfl ?_ ?_
  · simp [packNat]
  · simp [fixed, packNat]

theorem reservedLdSt (low : BitVec 13) : Statement (.reservedLdSt low) := by
  have := low.isLt
  refine of_pack (l := _) rfl ?_ ?_
  · simp [packNat]; omega
  · simp [fixed, packNat]; omega

theorem reservedMulOdd (rd : Reg) (w : Bool) (b : Operand) : Statement (.reservedMulOdd rd w b) := by
  have := rd.isLt
  rcases b with r | r
  all_goals
    have := r.isLt
    cases w
  all_goals
    refine of_pack (l := _) rfl ?_ ?_
    · simp [Operand.fields, packNat]; omega
    · intro h
      have h2 : rd.toNat % 2 = 1 := by simpa [Instr.wellFormed, Reg.isEven_eq_true, Reg.isEven_eq_false] using h
      simp [fixed, Operand.fields, packNat]; omega

theorem reservedDivOdd (rd : Reg) (w : Bool) (b : Operand) : Statement (.reservedDivOdd rd w b) := by
  have := rd.isLt
  rcases b with r | r
  all_goals
    have := r.isLt
    cases w
  all_goals
    refine of_pack (l := _) rfl ?_ ?_
    · simp [Operand.fields, packNat]; omega
    · intro h
      have h2 : rd.toNat % 2 = 1 := by simpa [Instr.wellFormed, Reg.isEven_eq_true, Reg.isEven_eq_false] using h
      simp [fixed, Operand.fields, packNat]; omega

theorem reservedJump (low : BitVec 11) : Statement (.reservedJump low) := by
  have := low.isLt
  refine of_pack (l := _) rfl ?_ ?_
  · simp [packNat]; omega
  · simp [fixed, packNat]; omega

theorem reservedJrl7 (low : BitVec 7) : Statement (.reservedJrl7 low) := by
  have := low.isLt
  refine of_pack (l := _) rfl ?_ ?_
  · simp [packNat]; omega
  · simp [fixed, packNat]; omega

theorem reservedJrl6 (low : BitVec 6) : Statement (.reservedJrl6 low) := by
  have := low.isLt
  refine of_pack (l := _) rfl ?_ ?_
  · simp [packNat]; omega
  · simp [fixed, packNat]; omega

theorem reservedJrl5 (low : BitVec 5) : Statement (.reservedJrl5 low) := by
  have := low.isLt
  refine of_pack (l := _) rfl ?_ ?_
  · simp [packNat]; omega
  · simp [fixed, packNat]; omega

theorem reservedJrl4 (low : BitVec 4) : Statement (.reservedJrl4 low) := by
  have := low.isLt
  refine of_pack (l := _) rfl ?_ ?_
  · simp [packNat]; omega
  · simp [fixed, packNat]; omega

theorem reservedOpcode (low : BitVec 8) : Statement (.reservedOpcode low) := by
  have := low.isLt
  refine of_pack (l := _) rfl ?_ ?_
  · simp [packNat]; omega
  · simp [fixed, packNat]; omega

theorem reservedSmv (dst : Reg) : Statement (.reservedSmv dst) := by
  have := dst.isLt
  refine of_pack (l := _) rfl ?_ ?_
  · simp [packNat]; omega
  · simp [fixed, packNat]; omega

theorem reservedSys (low : BitVec 2) : Statement (.reservedSys low) := by
  have := low.isLt
  refine of_pack (l := _) rfl ?_ ?_
  · simp [packNat]; omega
  · simp [fixed, packNat]; omega

theorem reservedOnes (low : BitVec 3) : Statement (.reservedOnes low) := by
  have := low.isLt
  refine of_pack (l := _) rfl ?_ ?_
  · simp [packNat]; omega
  · simp [fixed, packNat]; omega

end Sys2Proof.Laws.TableRow
end

