-- ==== Sys2Proof/Laws/Shift.lean ====
section
/-! SUPPORT. The shift operations of Operands.lean, bit by bit (43_shift.md R181, R182). -/

namespace Sys2Proof.Machine

/-- R181: zeros come in from the right. -/
theorem getLsbD_shl (x : Word) (n k : Nat) (hk : k < 16) :
    (shl x n).getLsbD k = (decide (n ≤ k) && x.getLsbD (k - n)) := by
  simp only [shl, BitVec.getLsbD_shiftLeft, hk, decide_true, Bool.true_and]
  congr 1
  rw [← decide_not]
  simp

/-- R181: zeros come in from the left. -/
theorem getLsbD_shr (x : Word) (n k : Nat) : (shr x n).getLsbD k = x.getLsbD (k + n) := by
  simp [shr, Nat.add_comm]

/-- The mask of R181's sra: the top `n` bits. -/
theorem getLsbD_topBits : ∀ n < 8, ∀ k < 16,
    (BitVec.ofNat 16 (0xFFFF - (2 ^ (16 - n) - 1))).getLsbD k = decide (16 ≤ k + n) := by
  decide

/-- R181: the top `n` bits copy bit 15. -/
theorem getLsbD_sra (x : Word) (n k : Nat) (hn : n < 8) (hk : k < 16) :
    (sra x n).getLsbD k = x.getLsbD (min (k + n) 15) := by
  rw [sra, BitVec.getLsbD_or, getLsbD_shr]
  by_cases h : k + n < 16
  · rw [show min (k + n) 15 = k + n by omega]
    split
    · rw [getLsbD_topBits n hn k hk]
      simp [show ¬ 16 ≤ k + n by omega]
    · simp
  · rw [show min (k + n) 15 = 15 by omega, BitVec.getLsbD_of_ge x (k + n) (by omega)]
    split
    · next hx =>
      rw [getLsbD_topBits n hn k hk, hx]
      simp [show 16 ≤ k + n by omega]
    · next hx =>
      rw [Bool.not_eq_true] at hx
      rw [hx]
      simp

/-- R181: the bits shifted out re-enter at the top. -/
theorem getLsbD_ror (x : Word) (n k : Nat) (hn : n < 8) (hk : k < 16) :
    (ror x n).getLsbD k = x.getLsbD ((k + n) % 16) := by
  rw [ror]
  split
  · next h =>
    subst h
    rw [show (k + 0) % 16 = k by omega]
  · rw [BitVec.getLsbD_or, getLsbD_shr, getLsbD_shl _ _ _ hk]
    by_cases h' : k + n < 16
    · rw [show (k + n) % 16 = k + n by omega]
      simp [show ¬ 16 - n ≤ k by omega]
    · rw [show (k + n) % 16 = k - (16 - n) by omega, BitVec.getLsbD_of_ge x (k + n) (by omega)]
      simp [show 16 - n ≤ k by omega]

/-- R182: the old carry at bit 0. -/
theorem getLsbD_carryAt_zero (c : Bool) (k : Nat) (hk : k < 16) :
    (carryAt c 0).getLsbD k = (decide (k = 0) && c) := by
  cases c
  · simp [carryAt]
  · revert k
    decide

/-- R182: the old carry at bit 15. -/
theorem getLsbD_carryAt_top (c : Bool) (k : Nat) (hk : k < 16) :
    (carryAt c 15).getLsbD k = (decide (k = 15) && c) := by
  cases c
  · simp [carryAt]
  · revert k
    decide

end Sys2Proof.Machine
end

