-- ==== Sys2Proof/Tests/Slice0.lean ====
section
/-! SUPPORT. The model's own tests: ill-formed instructions refused, the words of every constructor written out from 30_encoding.md, one or two steps of each instruction with the values of spec/95_test_vectors.md (part 2), and a state and operands that meet the hypotheses of each statement of Certificates/Slice0/Obligations.lean that has any. -/

open Sys2Proof Sys2Proof.Machine

namespace Sys2Proof.Tests

/-! ### WellFormed refuses -/

theorem test_wellFormed_mul_odd : (Instr.mul 15 true (.reg 0)).wellFormed = false := by decide
theorem test_wellFormed_div_odd : (Instr.div 1 false (.imm 3)).wellFormed = false := by decide
theorem test_wellFormed_reservedMulOdd_even : (Instr.reservedMulOdd 14 true (.reg 0)).wellFormed = false := by decide
theorem test_wellFormed_reservedDivOdd_even : (Instr.reservedDivOdd 0 true (.reg 0)).wellFormed = false := by decide

/-! ### Decoding: every constructor's word from its row of R102 -/

theorem test_decode_ldi :
    decodeWord 0b0_111111111111111 = .ldi 0x7FFF := by decide

theorem test_decode_load_store :
    decodeWord 0b10_0_01_0011_0010_01_0 = .ld .ds 3 2 1 ∧
    decodeWord 0b10_0_11_0001_1111_10_0 = .ld .es 1 15 2 ∧
    decodeWord 0b10_1_00_1111_0101_11_0 = .st .cs 15 5 3 ∧
    decodeWord 0b10_1_10_0100_1101_00_0 = .st .ss 4 13 0 := by decide

theorem test_decode_alu :
    decodeWord 0b110_000_0011_1_0_0001 = .add 3 true (.reg 1) ∧
    decodeWord 0b110_001_0011_0_1_1111 = .sub 3 false (.imm 15) ∧
    decodeWord 0b110_010_0001_1_0_0010 = .and 1 true (.reg 2) ∧
    decodeWord 0b110_011_0001_1_1_0000 = .or 1 true (.imm 0) ∧
    decodeWord 0b110_100_1111_0_0_1111 = .xor 15 false (.reg 15) ∧
    decodeWord 0b110_101_0010_1_0_0100 = .mul 2 true (.reg 4) ∧
    decodeWord 0b110_110_1110_1_1_0011 = .div 14 true (.imm 3) := by decide

theorem test_decode_shift :
    decodeWord 0b110_111_0001_0_00_011 = .sl 1 3 ∧
    decodeWord 0b110_111_0010_0_01_010 = .sr 2 2 ∧
    decodeWord 0b110_111_0011_0_10_001 = .sra 3 1 ∧
    decodeWord 0b110_111_0100_0_11_100 = .ror 4 4 ∧
    decodeWord 0b110_111_0001_1_00_010 = .slc 1 2 ∧
    decodeWord 0b110_111_0010_1_01_011 = .src 2 3 ∧
    decodeWord 0b110_111_0011_1_10_001 = .sac 3 1 ∧
    decodeWord 0b110_111_0100_1_11_001 = .roc 4 1 := by decide

theorem test_decode_jump :
    decodeWord 0b1110_000_00000011_0 = .jmp 3 ∧
    decodeWord 0b1110_001_00000101_0 = .jz 5 ∧
    decodeWord 0b1110_010_11111110_0 = .jnz 0xFE ∧
    decodeWord 0b1110_011_01111111_0 = .jc 127 ∧
    decodeWord 0b1110_100_10000000_0 = .jnc 128 ∧
    decodeWord 0b1110_101_00000011_0 = .jn 3 ∧
    decodeWord 0b1110_110_00000001_0 = .jnn 1 ∧
    decodeWord 0b1110_111_0000_1110_0 = .jrl 14 := by decide

theorem test_decode_lsi_mov :
    decodeWord 0b11110_0101_0001111 = .lsi 5 15 ∧
    decodeWord 0b111110_1110_1111_10 = .mov 14 15 2 := by decide

theorem test_decode_set_clr :
    decodeWord 0b1111110_0_00000111 = .clr 0x07 ∧
    decodeWord 0b1111110_1_00100000 = .set 0x20 := by decide

theorem test_decode_mvs_smv :
    decodeWord 0b111111110_0_0011_00 = .mvsFromSeg 3 .cs ∧
    decodeWord 0b111111110_1_0000_01 = .mvsToSeg 0 .ds ∧
    decodeWord 0b111111110_1_0000_10 = .mvsToSeg 0 .ss ∧
    decodeWord 0b111111110_1_1111_11 = .mvsToSeg 15 .es ∧
    decodeWord 0b1111111110_00_0011 = .smvInactivePc 3 ∧
    decodeWord 0b1111111110_01_0100 = .smvShadowPsw 4 ∧
    decodeWord 0b1111111110_10_0101 = .smvNormalPsw 5 := by decide

theorem test_decode_bytes_ljmp :
    decodeWord 0b11111111110_0_0001 = .swb 1 ∧
    decodeWord 0b11111111110_1_0010 = .inv 2 ∧
    decodeWord 0b111111111110_0010 = .ljmp 2 := by decide

theorem test_decode_sys :
    decodeWord 0b1111111111110_000 = .nop ∧
    decodeWord 0b1111111111110_001 = .hlt ∧
    decodeWord 0b1111111111110_010 = .swi ∧
    decodeWord 0b1111111111110_011 = .reti := by decide

theorem test_decode_reserved :
    decodeWord 0b10_0_01_0001_0010_00_1 = .reservedLdSt 0b0010001001000 ∧
    decodeWord 0b110_101_0001_1_0_0100 = .reservedMulOdd 1 true (.reg 4) ∧
    decodeWord 0b110_110_1111_1_0_0000 = .reservedDivOdd 15 true (.reg 0) ∧
    decodeWord 0b1110_000_00000000_1 = .reservedJump 0 ∧
    decodeWord 0b1110_111_1_0000000_0 = .reservedJrl7 0 ∧
    decodeWord 0b1110_111_01_000000_0 = .reservedJrl6 0 ∧
    decodeWord 0b1110_111_001_00000_0 = .reservedJrl5 0 ∧
    decodeWord 0b1110_111_0001_1110_0 = .reservedJrl4 14 ∧
    decodeWord 0b11111110_11111111 = .reservedOpcode 0xFF ∧
    decodeWord 0b1111111110_11_0011 = .reservedSmv 3 ∧
    decodeWord 0b1111111111110_100 = .reservedSys 0 ∧
    decodeWord 0b1111111111110_111 = .reservedSys 3 ∧
    decodeWord 0b1111111111111_000 = .reservedOnes 0 ∧
    decodeWord 0b1111111111111_111 = .reservedOnes 7 := by decide

/-- The rows of the opcode table as the host numbers them: one word, bit 0 the least significant. -/
theorem test_decodeTableWord : decodeTableWord 16 0xFFF2 = some .swi ∧ decodeTableWord 16 0x1FFF0 = some .nop ∧
    decodeTableWord 32 0x1FFF0 = none := by decide

/-- A byte list too short for a word is refused by name. -/
theorem test_decode_truncated : decode [0xF0] = .error .truncated := by rfl

/-! ### One step on a small state -/

/-- N, Z, V, C of the active bank. -/
def flagged (n z v c : Bool) (s : State) : State :=
  s.setFlags ⟨n, z, v, c, false, false⟩

/-- One word of memory given. -/
def holding (pa : PhysAddr) (v : Word) (s : State) : State :=
  s.store pa v

/-- The vector table of M §8.1, as a boot image defines it (R81, R303). -/
def withTable (s : State) : State :=
  holding 0 0x100 (holding 1 0x200 (holding 2 0x300 (holding 3 0x400 s)))

/-- The start of part 2: CS = 0, S = 0, I = 0, program counter 0x0100, the vector table in memory, the registers given, all others 0. -/
def start (regs : List (Reg × Word)) : State :=
  withTable (regs.foldl (fun s p => s.writeReg p.1 p.2) State.reset)

/-- The machine in the shadow view, its program counter at `a`. -/
def inHandler (a : Word) (s : State) : State :=
  { s with sBit := true, pcShadow := a }

/-- The step of one instruction word goes on to a state that passes the check. -/
def after (w : Nat) (s : State) (check : State → Bool) : Bool :=
  match step (s.withFetchWord 16 w) with
  | .next t => check t
  | .fault _ => false
  | .refused _ => false

/-- The step of one instruction word stops with this fault. -/
def faults (w : Nat) (s : State) (f : Fault) : Bool :=
  match step (s.withFetchWord 16 w) with
  | .next _ => false
  | .fault g => decide (g = f)
  | .refused _ => false

/-- The four flags of the active bank. -/
def nzvc (s : State) : List Bool :=
  [s.flags.n, s.flags.z, s.flags.v, s.flags.c]

theorem test_ldi :
    after 0x7FFF (start [(0, 0xFFFF)]) (fun t => t.readReg 0 == 0x7FFF && t.pc == 0x101) = true := by decide
theorem test_lsi_min :
    after 0xF140 (start []) (fun t => t.readReg 2 == 0xFFC0) = true := by decide
theorem test_lsi_r15 :
    after 0xF790 (start []) (fun t => t.pc == 0x10) = true := by decide
theorem test_mov_wraps :
    after 0xF84B (start [(2, 0xFFFE)]) (fun t => t.readReg 1 == 1 && nzvc t == [false, false, false, false]) = true := by decide
theorem test_mov_pc :
    after 0xFBBE (start []) (fun t => t.readReg 14 == 0x102) = true := by decide
theorem test_ld_ea_wraps :
    after 0x8992 (holding 0x02000 0x5555 { start [(2, 0xFFFF)] with ds := 0x0200 }) (fun t => t.readReg 3 == 0x5555) = true := by decide
theorem test_ld_pa_wraps :
    after 0x9896 (holding 0x0FFE3 0x0042 { start [(2, 0xFFF0)] with es := 0xFFFF }) (fun t => t.readReg 1 == 0x42) = true := by decide
theorem test_st :
    after 0xA92A { start [(2, 0xCAFE), (5, 0x5678)] with ds := 0x1000 } (fun t => t.mem.readWord 0x15679 == some 0xCAFE && t.pc == 0x101) = true := by decide
theorem test_st_pc :
    after 0xB7E8 { start [(13, 0x40)] with ss := 2 } (fun t => t.mem.readWord 0x60 == some 0x100) = true := by decide
theorem test_add :
    after 0xC062 (start [(1, 0x8000), (2, 0x8000)]) (fun t => t.readReg 1 == 0 && nzvc t == [false, true, true, true]) = true := by decide
theorem test_add_r15 :
    after 0xC3F4 (start []) (fun t => t.pc == 0x104) = true := by decide
theorem test_sub :
    after 0xC462 (start [(1, 0x7FFF), (2, 0xFFFF)]) (fun t => t.readReg 1 == 0x8000 && nzvc t == [true, false, true, true]) = true := by decide
theorem test_sub_compare :
    after 0xC4DF (start [(3, 14)]) (fun t => t.readReg 3 == 14 && nzvc t == [true, false, false, true]) = true := by decide
theorem test_and :
    after 0xC862 (flagged false true true true (start [(1, 0xF0F0), (2, 0x0FF0)])) (fun t => t.readReg 1 == 0xF0 && nzvc t == [false, false, true, true]) = true := by decide
theorem test_and_test :
    after 0xC8C2 (start [(3, 0xF0), (2, 0x0F)]) (fun t => t.readReg 3 == 0xF0 && nzvc t == [false, true, false, false]) = true := by decide
theorem test_or :
    after 0xCC62 (start [(1, 0x8000), (2, 1)]) (fun t => t.readReg 1 == 0x8001 && nzvc t == [true, false, false, false]) = true := by decide
theorem test_xor :
    after 0xD061 (start [(1, 0x1234)]) (fun t => t.readReg 1 == 0 && nzvc t == [false, true, false, false]) = true := by decide
theorem test_mul :
    after 0xD4A4 (start [(2, 0xFFFF), (4, 0xFFFF)]) (fun t => t.readReg 2 == 0xFFFE && t.readReg 3 == 1 && nzvc t == [true, false, false, false]) = true := by decide
theorem test_mul_source_in_pair :
    after 0xD4A3 (start [(2, 3), (3, 5)]) (fun t => t.readReg 2 == 0 && t.readReg 3 == 15) = true := by decide
theorem test_div :
    after 0xD8A4 (start [(2, 0x1234), (3, 0x5678), (4, 100)]) (fun t => t.readReg 2 == 0x2E && t.readReg 3 == 0x9A76 && nzvc t == [false, false, false, false]) = true := by decide
theorem test_div_source_in_pair :
    after 0xD8A3 (start [(2, 0), (3, 7)]) (fun t => t.readReg 2 == 0 && t.readReg 3 == 1) = true := by decide
theorem test_sl :
    after 0xDC47 (start [(1, 0x0200)]) (fun t => t.readReg 1 == 0 && nzvc t == [false, true, false, true]) = true := by decide
theorem test_sl_zero :
    after 0xDC40 (flagged false false false true (start [(1, 0x8000)])) (fun t => t.readReg 1 == 0x8000 && nzvc t == [true, false, false, true]) = true := by decide
theorem test_slc :
    after 0xDC62 (flagged false false false true (start [(1, 0x4001)])) (fun t => t.readReg 1 == 5 && nzvc t == [false, false, false, true]) = true := by decide
theorem test_slc_zero :
    after 0xDC60 (flagged false false false true (start [(1, 0x8000)])) (fun t => t.readReg 1 == 0x8001 && nzvc t == [true, false, false, true]) = true := by decide
theorem test_sr :
    after 0xDC8A (start [(2, 0x8006)]) (fun t => t.readReg 2 == 0x2001 && nzvc t == [false, false, false, true]) = true := by decide
theorem test_src :
    after 0xDCAB (flagged false false true true (start [(2, 0x0014)])) (fun t => t.readReg 2 == 0x8002 && nzvc t == [true, false, true, true]) = true := by decide
theorem test_sra :
    after 0xDCD1 (start [(3, 0x8003)]) (fun t => t.readReg 3 == 0xC001 && nzvc t == [true, false, false, true]) = true := by decide
theorem test_sra_minus_one :
    after 0xDC57 (start [(1, 0xFFFF)]) (fun t => t.readReg 1 == 0xFFFF && nzvc t == [true, false, false, true]) = true := by decide
theorem test_sac :
    after 0xDCF1 (flagged false false false true (start [(3, 4)])) (fun t => t.readReg 3 == 0x8002 && nzvc t == [true, false, false, false]) = true := by decide
theorem test_ror :
    after 0xDD1C (start [(4, 0x1234)]) (fun t => t.readReg 4 == 0x4123 && nzvc t == [false, false, false, false]) = true := by decide
theorem test_roc :
    after 0xDD39 (flagged false false false true (start [(4, 2)])) (fun t => t.readReg 4 == 0x8001 && nzvc t == [true, false, false, false]) = true := by decide
theorem test_jmp_back_wraps :
    after 0xE100 { start [] with pcNormal := 0x10 } (fun t => t.pc == 0xFF90) = true := by decide
theorem test_jmp_forward_wraps :
    after 0xE0FE { start [] with pcNormal := 0xFFF0 } (fun t => t.pc == 0x6F) = true := by decide
theorem test_jz_taken :
    after 0xE20A { flagged false true false false (start []) with pcNormal := 0x180 } (fun t => t.pc == 0x185) = true := by decide
theorem test_jz_not_taken :
    after 0xE20A { start [] with pcNormal := 0x180 } (fun t => t.pc == 0x181) = true := by decide
theorem test_jnz_taken :
    after 0xE5FC { start [] with pcNormal := 0x180 } (fun t => t.pc == 0x17E) = true := by decide
theorem test_jnz_not_taken :
    after 0xE5FC { flagged false true false false (start []) with pcNormal := 0x180 } (fun t => t.pc == 0x181) = true := by decide
theorem test_jc_taken :
    after 0xE6FE { flagged false false false true (start []) with pcNormal := 0x180 } (fun t => t.pc == 0x1FF) = true := by decide
theorem test_jc_not_taken :
    after 0xE6FE { start [] with pcNormal := 0x180 } (fun t => t.pc == 0x181) = true := by decide
theorem test_jnc_taken :
    after 0xE900 { start [] with pcNormal := 0x180 } (fun t => t.pc == 0x100) = true := by decide
theorem test_jnc_not_taken :
    after 0xE900 { flagged false false false true (start []) with pcNormal := 0x180 } (fun t => t.pc == 0x181) = true := by decide
theorem test_jn_taken :
    after 0xEA06 { flagged true false false false (start []) with pcNormal := 0x180 } (fun t => t.pc == 0x183) = true := by decide
theorem test_jn_not_taken :
    after 0xEA06 { start [] with pcNormal := 0x180 } (fun t => t.pc == 0x181) = true := by decide
theorem test_jnn_taken :
    after 0xEC04 { start [] with pcNormal := 0x180 } (fun t => t.pc == 0x182) = true := by decide
theorem test_jnn_not_taken :
    after 0xEC04 { flagged true false false false (start []) with pcNormal := 0x180 } (fun t => t.pc == 0x181) = true := by decide
theorem test_jrl :
    after 0xEE1C (start [(14, 0x104)]) (fun t => t.pc == 0x104 && t.readReg 14 == 0x104) = true := by decide
theorem test_jrl_pc :
    after 0xEE1E (start []) (fun t => t.pc == 0x100) = true := by decide
theorem test_ljmp :
    after 0xFFE2 (holding 0x00300 0x0010 (holding 0x00301 0x0020 (start [(2, 0x0300)]))) (fun t => t.cs == 0x10 && t.pc == 0x20) = true := by decide
theorem test_ljmp_wraps :
    after 0xFFE2 (holding 0x10FFF 0x0002 (holding 0x01000 0x0040 { start [(2, 0xFFFF)] with ds := 0x0100 })) (fun t => t.cs == 2 && t.pc == 0x40) = true := by decide
theorem test_set_flags :
    after 0xFDEF (start []) (fun t => t.iBit && t.psw .normal == 0xEF && t.psw .shadow == 0x20) = true := by decide
theorem test_clr :
    after 0xFC07 (flagged true true true true (start [])) (fun t => t.psw .normal == 0x08) = true := by decide
theorem test_clr_view :
    after 0xFC10 (inHandler 0x300 { start [] with pcNormal := 0x123 }) (fun t => !t.sBit && t.pcShadow == 0x301 && t.pcNormal == 0x123 && !t.iBit) = true := by decide
theorem test_set_view :
    after 0xFD10 { start [] with pcShadow := 0x555 } (fun t => t.sBit && t.pc == 0x555 && t.pcNormal == 0x101 && t.psw .shadow == 0x10) = true := by decide
theorem test_mvs_from_cs :
    after 0xFF0C { start [] with cs := 0x10, pcNormal := 0 } (fun t => t.readReg 3 == 0x10 && t.pc == 1) = true := by decide
theorem test_mvs_to_es_pc :
    after 0xFF7F (start []) (fun t => t.es == 0x100) = true := by decide
theorem test_mvs_to_cs :
    after 0xFF44 (start [(1, 0x20)]) (fun t => t.cs == 0x20 && t.pc == 0x101 && t.phys .cs t.pc == 0x00301) = true := by decide
theorem test_smv_pc :
    after 0xFF83 { start [] with pcShadow := 0x777 } (fun t => t.readReg 3 == 0x777) = true := by decide
theorem test_smv_pc_in_handler :
    after 0xFF83 (inHandler 0x200 { start [] with pcNormal := 0x103 }) (fun t => t.readReg 3 == 0x103 && t.pcShadow == 0x201) = true := by decide
theorem test_smv_shadow_psw :
    after 0xFF93 { flagged false false false true (start []) with iBit := true, flShadow := ⟨true, true, false, false, false, false⟩ } (fun t => t.readReg 3 == 0x23) = true := by decide
theorem test_smv_normal_psw :
    after 0xFFA3 { flagged false false false true (start []) with iBit := true, flShadow := ⟨true, true, false, false, false, false⟩ } (fun t => t.readReg 3 == 0x28) = true := by decide
theorem test_swb :
    after 0xFFC1 (start [(1, 0x1234)]) (fun t => t.readReg 1 == 0x3412) = true := by decide
theorem test_inv :
    after 0xFFD1 (start [(1, 0xFFFF)]) (fun t => t.readReg 1 == 0 && nzvc t == [false, false, false, false]) = true := by decide
theorem test_nop :
    after 0xFFF0 (start []) (fun t => t.pc == 0x101) = true := by decide
theorem test_hlt :
    after 0xFFF1 (start []) (fun t => t.halted && t.pc == 0x101) = true := by decide
theorem test_swi :
    after 0xFFF2 { flagged false false false true (holding 1 0x200 (start [])) with pcNormal := 0x102, iBit := true, cs := 0x10 } (fun t => t.sBit && !t.iBit && t.cs == 0 && t.pcNormal == 0x103 && t.pcShadow == 0x200 && t.psw .normal == 0x18 && t.psw .shadow == 0x10) = true := by decide
theorem test_swi_in_handler :
    after 0xFFF2 (inHandler 0x310 { holding 1 0x200 (start []) with pcNormal := 0x103 }) (fun t => t.sBit && t.pcShadow == 0x200 && t.pcNormal == 0x103) = true := by decide
theorem test_reti :
    after 0xFFF3 (inHandler 0x204 { start [] with pcNormal := 0x103, cs := 5 }) (fun t => !t.sBit && t.iBit && t.pcShadow == 0x205 && t.pc == 0x103 && t.cs == 5) = true := by decide
theorem test_reti_normal :
    after 0xFFF3 { start [] with pcNormal := 0x104 } (fun t => !t.sBit && t.iBit && t.pc == 0x105) = true := by decide

/-! ### Stops -/

theorem test_stop_div_odd : faults 0xDBE0 (start []) (.oddPair 15) = true := by decide
theorem test_stop_reserved_ld : faults 0x8891 (start []) (.reserved 0x8891) = true := by decide
theorem test_stop_reserved_jrl7 : faults 0xEF00 (start []) (.reserved 0xEF00) = true := by decide
theorem test_stop_reserved_jrl6 : faults 0xEE80 (start []) (.reserved 0xEE80) = true := by decide
theorem test_stop_reserved_jrl5 : faults 0xEE40 (start []) (.reserved 0xEE40) = true := by decide
theorem test_stop_reserved_jrl4 : faults 0xEE3C (start []) (.reserved 0xEE3C) = true := by decide
theorem test_stop_reserved_opcode : faults 0xFEFF (start []) (.reserved 0xFEFF) = true := by decide
theorem test_stop_reserved_smv : faults 0xFFB3 (start []) (.reserved 0xFFB3) = true := by decide
theorem test_stop_reserved_sys : faults 0xFFF7 (start []) (.reserved 0xFFF7) = true := by decide
theorem test_stop_reserved_ones : faults 0xFFFF (start []) (.reserved 0xFFFF) = true := by decide

/-! ### Boundaries (part 2.9) -/

/-- The next state of one step passes the check. -/
def stepped (s : State) (check : State → Bool) : Bool :=
  match step s with
  | .next t => check t
  | .fault _ => false
  | .refused _ => false

/-- One boundary with the interrupt line high. -/
def requested (s : State) : State :=
  { s with inputs := [⟨true, false⟩] }

/-- One boundary with reset asserted. -/
def resetting (s : State) : State :=
  { s with inputs := [⟨true, true⟩] }

theorem test_interrupt_taken :
    stepped (requested { holding 2 0x300 (start []) with pcNormal := 0x50, cs := 0x10, iBit := true })
      (fun t => t.sBit && !t.iBit && t.cs == 0 && t.pcShadow == 0x300 && t.pcNormal == 0x50 && t.inputs == []) = true := by
  decide

theorem test_interrupt_held_off :
    stepped (requested ((start []).withFetchWord 16 0xFFF0)) (fun t => !t.sBit && t.pc == 0x101) = true := by decide

theorem test_halted_ignores_interrupt :
    stepped (requested { start [] with halted := true, iBit := true }) (fun t => t.halted && !t.sBit && t.pc == 0x100) = true := by
  decide

theorem test_reset_event :
    stepped (resetting { holding 0 0x123 (start [(1, 7)]) with halted := true, iBit := true, sBit := true, cs := 9 })
      (fun t => !t.halted && !t.iBit && !t.sBit && t.cs == 0 && t.pc == 0x123) = true := by decide

/-- Memory is stored in canonical form: two stores in either order leave the same list. -/
theorem test_canonical : Memory.writeWord (Memory.writeWord [] 1 0x200) 0 0x100 =
    Memory.writeWord (Memory.writeWord [] 0 0x100) 1 0x200 ∧ (Memory.writeWord [] 1 0x201).wf = true := by decide

/-- A vector word that no image defined stops SWI, the interrupt and the reset event (R302): the second clauses of SwiEntersVectorOne, HardwareInterruptTaken and ResetEventEntersVectorZero, and SWI's case of FaultCause. -/
theorem test_stop_undefined_vector : State.reset.mem.readWord 0 = none ∧ State.reset.mem.readWord 1 = none ∧
    State.reset.mem.readWord 2 = none ∧ (resetting State.reset).pins.resetLine = true ∧
    faults 0xFFF2 State.reset (.unspecified 1) = true ∧
    step (requested { State.reset with iBit := true }) = .fault (.unspecified 2) ∧
    step (resetting State.reset) = .fault (.unspecified 0) := ⟨by decide, by decide, by decide, by decide, by decide, by rfl, by rfl⟩

/-! ### The hypotheses of the statements can be met -/

/-- A quiet state whose next word is a NOP. -/
def ready : State :=
  (start []).withFetchWord 16 0xFFF0

theorem test_ready_quiet : ready.QuietBoundary := ⟨by decide, by decide, by decide⟩

/-- DecodeEncodeAgree, and the first clause of FaultsAreExactlyTheRaiseTable. -/
theorem test_witness_wellFormed : (Instr.mul 14 true (.reg 15)).wellFormed = true ∧
    (Instr.reservedDivOdd 15 false (.imm 15)).wellFormed = true ∧ (Instr.st .es 15 15 3).wellFormed = true := by decide

/-- ReservedWordsAreThoseOfTheTable, at both ends of each range and just outside. -/
theorem test_witness_reservedWords :
    [0xFE00, 0xFEFF, 0xFFF8, 0xFFFF, 0xFFF4, 0xFFF7, 0xFFB0, 0xFFBF, 0x8001, 0xBFFF, 0xE001, 0xEFFF, 0xEE20, 0xEFFE, 0xD440,
      0xDBFF].all (fun w : Word => (decodeWord w).isReserved) = true ∧
    [0xFDFF, 0xFF00, 0xFFF3, 0xFFAF, 0xFFC0, 0x8000, 0xBFFE, 0xE000, 0xEE1E, 0xEDFE, 0xD400, 0xDBBF, 0xDC40, 0xD3FF].any
      (fun w : Word => (decodeWord w).isReserved) = false := by decide

theorem test_witness_StepRunsDecodedInstruction : ready.QuietBoundary ∧
    ready.mem.readByte (2 * (ready.phys .cs ready.pc).toNat) = some 0xF0 ∧
    ready.mem.readByte (2 * (ready.phys .cs ready.pc).toNat + 1) = some 0xFF ∧ decode [0xF0, 0xFF] = .ok (.nop, []) :=
  ⟨test_ready_quiet, by decide, by decide, by rfl⟩

/-- The same with the line high and I = 0: the other side of QuietBoundary. -/
theorem test_witness_QuietBoundary_requested : (requested ready).QuietBoundary := ⟨by decide, by decide, by decide⟩

theorem test_witness_FetchOfUndefinedWordFaults :
    State.reset.QuietBoundary ∧ State.reset.mem.readWord (State.reset.phys .cs State.reset.pc) = none :=
  ⟨⟨by decide, by decide, by decide⟩, by decide⟩

theorem test_witness_PlacedInstructionRuns : decodeTableWord 16 0xFFFF = some (.reservedOnes 7) := by decide

theorem test_witness_HaltedCoreDoesNothing :
    (requested { start [] with halted := true }).halted = true ∧
    (requested { start [] with halted := true }).pins.resetLine = false := by decide

theorem test_witness_ShiftAndSystemCodesDecode : 4 ≤ (4 : BitVec 3).toNat ∧ 4 ≤ (7 : BitVec 3).toNat := by decide

theorem test_witness_OperandReads : (14 : Reg).toNat < 15 := by decide

theorem test_witness_PhysicalAddressFormed :
    (State.segOf { start [] with ds := 0xFFFF, es := 0xFFFE } .ds).toNat =
      (State.segOf { start [] with ds := 0xFFFF, es := 0xFFFE } .es).toNat + 1 ∧
    (0xFFFF : Word).toNat = (0xFFEF : Word).toNat + 16 := by decide

theorem test_witness_StepKeepsGood : ready.Good ∧ step ready = .next ready.sampled.advance :=
  ⟨show ready.mem.wf = true by decide, by rfl⟩

theorem test_witness_ResetEventEntersVectorZero :
    (resetting ready).pins.resetLine = true ∧ (resetting ready).mem.readWord 0 = some 0x100 := by decide

theorem test_witness_HardwareInterruptTaken :
    (requested { ready with iBit := true }).halted = false ∧ (requested { ready with iBit := true }).pins.resetLine = false ∧
    (requested { ready with iBit := true }).pins.irqLine = true ∧ (requested { ready with iBit := true }).iBit = true ∧
    (requested { ready with iBit := true }).mem.readWord 2 = some 0x300 := by decide

theorem test_witness_InterruptEnableBit :
    (requested ready).iBit = false ∧ (requested ready).inputs = [⟨true, false⟩] ∧
    enterTrap 2 ready = .next (ready.trapTo 0x300) ∧ ready.mem.readWord 1 = some 0x200 :=
  ⟨by decide, by decide, by rfl, by decide⟩

/-- A handler's state: S = 1, I = 0, the next word the one given. -/
def handling (w : Nat) : State :=
  (inHandler 0x200 (start [])).withFetchWord 16 w

theorem test_witness_HandlerIsNotInterrupted :
    (handling 0xFFF3).sBit = true ∧ (handling 0xFFF3).iBit = false ∧
    stepped (handling 0xFFF3) (fun t => t.iBit) = true ∧ stepped (handling 0xFD20) (fun t => t.iBit) = true := by decide

/-- Both sides of ShadowViewWrittenByTrapEntryOnly: an instruction that keeps the shadow program counter, one that traps. -/
theorem test_witness_ShadowViewWrittenByTrapEntryOnly :
    ready.sBit = false ∧ ready.pins.resetLine = false ∧ stepped ready (fun t => t.pcShadow == ready.pcShadow) = true ∧
    stepped ((start []).withFetchWord 16 0xFFF2) (fun t => t.sBit && t.pcShadow == 0x200) = true := by decide

theorem test_witness_NormalViewKeptInHandler :
    (handling 0xFFF0).sBit = true ∧ (handling 0xFFF0).pins.resetLine = false ∧ stepped (handling 0xFFF0) (fun _ => true) = true := by
  decide

/-- A program at 0x0100 that executes SWI; its handler is a NOP and a RETI. -/
def calling : State :=
  holding 0x200 0xFFF0 (holding 0x201 0xFFF3 ((start []).withFetchWord 16 0xFFF2))

/-- The state in its handler, after `k` steps of it. -/
def called (k : Word) : State :=
  { calling with sBit := true, pcNormal := 0x101, pcShadow := 0x200 + k }

theorem test_witness_SwiHandlerReturnsAfterSwi :
    calling.sBit = false ∧ calling.QuietBoundary ∧ calling.fetch = some 0xFFF2 ∧ decodeWord 0xFFF2 = .swi ∧
    step calling = .next (called 0) ∧ HandlerRun (called 0) (called 1) ∧ (called 1).sBit = true ∧
    (called 1).QuietBoundary ∧ (called 1).fetch = some 0xFFF3 ∧ decodeWord 0xFFF3 = .reti ∧
    step (called 1) = .next (called 1).advance.returnFromTrap :=
  ⟨by decide, ⟨by decide, by decide, by decide⟩, by decide, by decide, by rfl,
    .step (by decide) (by decide) (by rfl) (.refl _), by decide, ⟨by decide, by decide, by decide⟩, by decide, by decide,
    by rfl⟩

/-- A program at 0x0100 whose first boundary takes the interrupt; its handler is a RETI. -/
def interrupted : State :=
  requested { holding 0x300 0xFFF3 ready with iBit := true }

theorem test_witness_InterruptHandlerReturnsToInterrupted :
    interrupted.sBit = false ∧ interrupted.halted = false ∧ interrupted.pins.resetLine = false ∧
    interrupted.irqTaken = true ∧ step interrupted = .next (interrupted.sampled.trapTo 0x300) ∧
    HandlerRun (interrupted.sampled.trapTo 0x300) (interrupted.sampled.trapTo 0x300) ∧
    (interrupted.sampled.trapTo 0x300).sBit = true ∧ (interrupted.sampled.trapTo 0x300).QuietBoundary ∧
    (interrupted.sampled.trapTo 0x300).fetch = some 0xFFF3 ∧ decodeWord 0xFFF3 = .reti ∧
    step (interrupted.sampled.trapTo 0x300) = .next (interrupted.sampled.trapTo 0x300).advance.returnFromTrap :=
  ⟨by decide, by decide, by decide, by decide, by rfl, .refl _, by decide, ⟨by decide, by decide, by decide⟩, by decide,
    by decide, by rfl⟩

/-- Both sides of OnlyStoreChangesMemory. -/
theorem test_witness_OnlyStoreChangesMemory :
    stepped ready (fun t => t.mem == ready.mem) = true ∧
    after 0xA0FE (start []) (fun t => t.mem.readWord 0x103 == some 0) = true := by decide

/-- Every way of CsChangedOnlyAsListed, from CS = 9. -/
theorem test_witness_CsChangedOnlyAsListed :
    stepped (resetting { ready with cs := 9 }) (fun t => t.cs != 9) = true ∧
    stepped (requested { ready with cs := 9, iBit := true }) (fun t => t.cs != 9) = true ∧
    after 0xFFF2 { start [] with cs := 9 } (fun t => t.cs != 9) = true ∧
    after 0xFFE2 (holding 0x300 0x10 (holding 0x301 0x20 { start [(2, 0x300)] with cs := 9 })) (fun t => t.cs != 9) = true ∧
    after 0xFF44 { start [(1, 0x20)] with cs := 9 } (fun t => t.cs != 9) = true := by decide

theorem test_witness_FlagsChangeOnlyAsListed : exec (.inv 3) ready = .next (ready.advance.writeReg 3 0xFFFF) := by rfl

/-- Every clause of FaultCause. -/
theorem test_witness_FaultCause :
    faults 0xE001 (start []) (.reserved 0xE001) = true ∧ faults 0xD464 (start []) (.oddPair 1) = true ∧
    faults 0xD8B0 (start []) .divideByZero = true ∧ faults 0xA0FA (start []) (.fetchHazard 0x101) = true ∧
    faults 0xA0FC (start []) (.fetchHazard 0x102) = true ∧ faults 0x8880 (start [(0, 0x500)]) (.unspecified 0x500) = true ∧
    faults 0xFFE2 (start [(2, 0x500)]) (.unspecified 0x500) = true ∧
    faults 0xFFE2 (holding 0x500 7 (start [(2, 0x500)])) (.unspecified 0x501) = true := by decide

/-- Both clauses of LoadReadsMemory: a vector word, and the first word after the table. -/
theorem test_witness_LoadReadsMemory :
    (start []).mem.readWord ((start []).phys .ds ((start []).readReg 2 + (3 : BitVec 2).setWidth 16)) = some 0x400 ∧
    (start [(2, 1)]).mem.readWord ((start [(2, 1)]).phys .ds ((start [(2, 1)]).readReg 2 + (3 : BitVec 2).setWidth 16)) =
      none := by decide

/-- The clauses of StoreWritesOneWord: three words ahead and itself allowed, one and two words ahead not. -/
theorem test_witness_StoreWritesOneWord :
    (start []).phys .cs ((start []).readReg 15 + (3 : BitVec 2).setWidth 16) ≠ (start []).phys .cs ((start []).pc + 1) ∧
    (start []).phys .cs ((start []).readReg 15 + (3 : BitVec 2).setWidth 16) ≠ (start []).phys .cs ((start []).pc + 2) ∧
    (start []).phys .cs ((start []).readReg 15 + (0 : BitVec 2).setWidth 16) ≠ (start []).phys .cs ((start []).pc + 1) ∧
    (start []).phys .cs ((start []).readReg 15 + (0 : BitVec 2).setWidth 16) ≠ (start []).phys .cs ((start []).pc + 2) ∧
    (start []).phys .cs ((start []).readReg 15 + (1 : BitVec 2).setWidth 16) = (start []).phys .cs ((start []).pc + 1) ∧
    (start []).phys .cs ((start []).readReg 15 + (2 : BitVec 2).setWidth 16) = (start []).phys .cs ((start []).pc + 2) := by
  decide

/-- The state after `ST R1, [DS:R2, 1]` on `start [(1, 7), (2, 0x500)]`. -/
def stored : State :=
  (start [(1, 7), (2, 0x500)]).advance.store 0x501 7

theorem test_witness_LoadAfterStore :
    exec (.st .ds 1 2 1) (start [(1, 7), (2, 0x500)]) = .next stored ∧
    stored.phys .ss (stored.readReg 2 + (1 : BitVec 2).setWidth 16) =
      (start [(1, 7), (2, 0x500)]).phys .ds ((start [(1, 7), (2, 0x500)]).readReg 2 + (1 : BitVec 2).setWidth 16) :=
  ⟨by rfl, by decide⟩

/-- AddResultAndFlags, SubResultAndFlags, OverflowAndCarryMeaning, LogicResultsAndFlags: the equations of their operands. -/
theorem test_witness_operands : (0x8000 : Word) = (start [(1, 0x8000)]).readReg 1 ∧
    (15 : Word) = (start []).operand (.imm 15) ∧ (0x100 : Word) = (start []).operand (.reg 15) := by decide

theorem test_witness_MulResultAndFlags : (14 : Reg).toNat % 2 = 0 ∧ (15 : Reg).toNat % 2 = 1 := by decide

theorem test_witness_DivResultAndFlags : (14 : Reg).toNat % 2 = 0 ∧ (start []).operand (.reg 15) ≠ 0 ∧
    (start []).operand (.imm 0) = 0 ∧ (1 : Reg).toNat % 2 = 1 := by decide

/-- The equations of the four shift statements, at counts 0, 1 and 7. -/
theorem test_witness_shifts : (0x8001 : Word) = (start [(1, 0x8001)]).readReg 1 ∧
    false = (if (0 : BitVec 3).toNat = 0 then (start []).flags.c else (0x8001 : Word).getLsbD (16 - 0)) ∧
    true = (if (1 : BitVec 3).toNat = 0 then (start []).flags.c else (0x8001 : Word).getLsbD (16 - 1)) ∧
    false = (if (7 : BitVec 3).toNat = 0 then (start []).flags.c else (0x8001 : Word).getLsbD (16 - 7)) ∧
    true = (if (1 : BitVec 3).toNat = 0 then (start []).flags.c else (0x8001 : Word).getLsbD (1 - 1)) := by decide

/-- ShortJumpTargets: backward across 0 and forward across 0xFFFF. -/
theorem test_witness_ShortJumpTargets :
    (0xFF90 : Word).toInt = ((0x10 : Word).toInt + (0x80 : BitVec 8).toInt).bmod (2 ^ 16) ∧
    (0x11 : Word).toNat = ((0x10 : Word).toNat + 1) % 2 ^ 16 ∧
    (0x7E : Word).toInt = ((0xFFFF : Word).toInt + (0x7F : BitVec 8).toInt).bmod (2 ^ 16) ∧
    (0 : Word).toNat = ((0xFFFF : Word).toNat + 1) % 2 ^ 16 := by decide

/-- The three clauses of LjmpLoadsCsAndPc: words 2 and 3 of the vector table, no first word, and a first word with no second. -/
theorem test_witness_LjmpLoadsCsAndPc :
    (start []).mem.readWord ((start [(2, 2)]).phys .ds ((start [(2, 2)]).readReg 2)) = some 0x300 ∧
    (start []).mem.readWord ((start [(2, 2)]).phys .ds ((start [(2, 2)]).readReg 2 + 1)) = some 0x400 ∧
    (start []).mem.readWord ((start [(2, 4)]).phys .ds ((start [(2, 4)]).readReg 2)) = none ∧
    ((start []).mem.readWord ((start [(2, 3)]).phys .ds ((start [(2, 3)]).readReg 2))).isSome = true ∧
    (start []).mem.readWord ((start [(2, 3)]).phys .ds ((start [(2, 3)]).readReg 2 + 1)) = none := by decide

theorem test_witness_StatusBitFourSwitchesTheView : (start []).sBit = false ∧ (handling 0xFC10).sBit = true := by decide

theorem test_witness_SwiEntersVectorOne :
    (start []).mem.readWord 1 = some 0x200 ∧ (handling 0xFFF2).mem.readWord 1 = some 0x200 := by decide

/-- The last clauses of NopOnlyAdvances and RetiReturnsToNormalView. -/
theorem test_witness_pendingRequest :
    exec .nop (requested { ready with iBit := true }) = .next (requested { ready with iBit := true }).advance ∧
    (requested { ready with iBit := true }).advance.halted = false ∧
    (requested { ready with iBit := true }).advance.pins.resetLine = false ∧
    (requested { ready with iBit := true }).advance.pins.irqLine = true ∧
    (requested { ready with iBit := true }).advance.iBit = true :=
  ⟨by rfl, by decide, by decide, by decide, by decide⟩

end Sys2Proof.Tests
end

section
/-! SUPPORT. One instruction at a quiet boundary, from the fetched word to the step; then the state `withFetchWord` makes: it is quiet and its fetch is the word placed (00_scope.md R11). -/

namespace Sys2Proof.Machine

/-! ### The fetch at a quiet boundary -/

/-- Where the fetch finds a word, the step of a quiet boundary is its instruction (R11, R105). -/
theorem step_of_fetch {s : State} {w : Word} (hq : s.QuietBoundary) (hw : s.fetch = some w) :
    step s = exec (decodeWord w) s.sampled := by
  rw [step_quiet hq, fetchAndRun_eq, State.sampled_fetch, hw]

/-- Two defined bytes make their word, the first holding bits 7:0 (log 6). -/
theorem Memory.readWord_of_bytes {m : Memory} {pa : PhysAddr} {lo hi : Byte}
    (hlo : m.readByte (2 * pa.toNat) = some lo) (hhi : m.readByte (2 * pa.toNat + 1) = some hi) :
    m.readWord pa = some (Word.ofBytes lo hi) := by
  rw [Memory.readWord_eq, Memory.wordAt, hlo, hhi]

theorem decode_pair_eq_ok_iff {lo hi : Byte} {i : Instr} :
    decode [lo, hi] = .ok (i, []) ↔ decodeWord (Word.ofBytes lo hi) = i := by
  simp [decode]

/-- Settles O6: the two bytes are the word fetched, and their decoding is that word's. -/
theorem stepRunsDecodedInstruction : Obligations.StepRunsDecodedInstruction := by
  intro s lo hi i hq hlo hhi hdec
  have hfetch : s.fetch = some (Word.ofBytes lo hi) := Memory.readWord_of_bytes hlo hhi
  rw [step_of_fetch hq hfetch, decode_pair_eq_ok_iff.mp hdec, State.sampled_eq]

/-! ### The state `withFetchWord` makes -/

/-- Placing a word is a store at the fetch address, in a core that runs and has nothing ahead of the fetch (log 3). -/
theorem State.withFetchWord_eq (s : State) (nbits w : Nat) :
    s.withFetchWord nbits w =
      { s.store (s.phys .cs s.pc) (firstWord nbits w) with halted := false, inputs := s.quietInputs } := rfl

@[simp] theorem State.withFetchWord_regs (s : State) (nbits w : Nat) : (s.withFetchWord nbits w).regs = s.regs := rfl
@[simp] theorem State.withFetchWord_pc (s : State) (nbits w : Nat) : (s.withFetchWord nbits w).pc = s.pc := rfl
@[simp] theorem State.withFetchWord_iBit (s : State) (nbits w : Nat) : (s.withFetchWord nbits w).iBit = s.iBit := rfl
@[simp] theorem State.withFetchWord_halted (s : State) (nbits w : Nat) : (s.withFetchWord nbits w).halted = false := rfl
@[simp] theorem State.withFetchWord_mem (s : State) (nbits w : Nat) :
    (s.withFetchWord nbits w).mem = s.mem.writeWord (s.phys .cs s.pc) (firstWord nbits w) := rfl
@[simp] theorem State.withFetchWord_phys (s : State) (nbits w : Nat) (g : Seg) (ea : Word) :
    (s.withFetchWord nbits w).phys g ea = s.phys g ea :=
  State.phys_congr ⟨rfl, rfl, rfl, rfl⟩ g ea

/-- The levels of this boundary after the placing: no reset, and the interrupt line only where I = 0 masks it. -/
theorem State.withFetchWord_pins (s : State) (nbits w : Nat) :
    (s.withFetchWord nbits w).pins = { irqLine := s.pins.irqLine && !s.iBit, resetLine := false } := by
  rw [State.withFetchWord_eq]
  cases h : s.inputs <;> simp [State.pins, State.quietInputs, h]

theorem State.withFetchWord_quiet (s : State) (nbits w : Nat) : (s.withFetchWord nbits w).QuietBoundary := by
  refine ⟨by simp, by simp [State.withFetchWord_pins], ?_⟩
  rw [State.withFetchWord_pins, State.withFetchWord_iBit]
  cases s.iBit <;> simp

theorem State.withFetchWord_fetch (s : State) (nbits w : Nat) :
    (s.withFetchWord nbits w).fetch = some (firstWord nbits w) := by
  simp [State.fetch, Memory.readWord_writeWord_self]

theorem State.withFetchWord_wordStored (s : State) (nbits w : Nat) :
    WordStored s (s.withFetchWord nbits w) (s.phys .cs s.pc) (firstWord nbits w) :=
  s.store_wordStored s rfl (s.phys .cs s.pc) (firstWord nbits w)

/-- The opcode table's question answered: the bits fit one word, and that word decodes to the instruction (R100). -/
theorem decodeTableWord_eq_some_iff {nbits w : Nat} {i : Instr} :
    decodeTableWord nbits w = some i ↔ w % 2 ^ nbits < 2 ^ 16 ∧ decodeWord (firstWord nbits w) = i := by
  have hdec : decode (firstWord nbits w).toBytes = .ok (decodeWord (firstWord nbits w), []) := by
    simpa using decode_toBytes (firstWord nbits w) []
  simp [decodeTableWord, hdec]

/-- Settles O8: the placed state is quiet, its fetch is the placed word, and that word decodes to the instruction. -/
theorem placedInstructionRuns : Obligations.PlacedInstructionRuns := by
  intro s nbits w i h
  obtain ⟨-, hdec⟩ := decodeTableWord_eq_some_iff.mp h
  refine ⟨?_, s.withFetchWord_pc nbits w, s.withFetchWord_regs nbits w, s.withFetchWord_wordStored nbits w⟩
  rw [step_of_fetch (s.withFetchWord_quiet nbits w) (s.withFetchWord_fetch nbits w), hdec]

end Sys2Proof.Machine
end

section
/-! SUPPORT. Registers, the two views and the status word: tier 1 of 10_state.md, and SMV (R31 to R54, R227). -/

namespace Sys2Proof.Machine

/-! ### The view that S selects -/

theorem State.view_eq_normal {s : State} (h : s.sBit = false) : s.view = .normal := by simp [State.view, h]
theorem State.view_eq_shadow {s : State} (h : s.sBit = true) : s.view = .shadow := by simp [State.view, h]

theorem State.pc_eq_ite (s : State) : s.pc = if s.sBit then s.pcShadow else s.pcNormal := by
  cases h : s.sBit <;> simp [State.pc, State.view, State.pcOf, h]

theorem State.pcOf_other_eq_ite (s : State) : s.pcOf s.view.other = if s.sBit then s.pcNormal else s.pcShadow := by
  cases h : s.sBit <;> simp [State.view, View.other, State.pcOf, h]

theorem State.flags_eq_ite (s : State) : s.flags = if s.sBit then s.flShadow else s.flNormal := by
  cases h : s.sBit <;> simp [State.flags, State.view, State.flagsOf, h]

/-! ### What is written to one of R0 to R14 is read back, in either mode -/

/-- R0 to R14 and S are different parts of the state, so the mode is free. -/
theorem State.readReg_writeReg_anyMode (s : State) (r : Reg) (v : Word) (inIsr : Bool) (h : r.toNat < 15) :
    State.readReg { s.writeReg r v with sBit := inIsr } r = v := by
  rw [State.readReg_lt _ r h, State.writeReg_regs s r v r.toNat h, if_pos rfl]

theorem State.segOf_anyMode (s : State) (inIsr : Bool) (seg : Seg) :
    State.segOf { s with sBit := inIsr } seg = s.segOf seg := by
  cases seg <;> rfl

theorem zext_toNat {n : Nat} (v : BitVec n) (h : n ≤ 16) : (zext v).toNat = v.toNat :=
  BitVec.toNat_setWidth_of_le h

/-- Settles O10: one rule per clause. -/
theorem operandReads : Obligations.OperandReads :=
  ⟨State.readReg_lt, State.readReg_writeReg_anyMode, State.segOf_anyMode, State.pc_eq_ite, State.flags_eq_ite,
    fun _ _ => rfl, fun _ v => zext_toNat v (by decide)⟩

/-! ### The status word -/

/-- Settles O12: the six places are among the sixteen bits of psw(v). -/
theorem statusWordLayout : Obligations.StatusWordLayout := by
  refine ⟨fun s v => ?_, fun s => ?_⟩
  · obtain ⟨hn, hz, hv, hc, -⟩ := s.psw_getLsbD v
    exact ⟨hn, hz, hv, hc⟩
  · obtain ⟨-, -, -, -, hS, hI, -⟩ := s.psw_getLsbD s.view
    exact ⟨hS, hI⟩

/-- A word whose high byte is 0 is below 256. -/
theorem toNat_lt_of_highByte_zero {w : Word} (h : bits w 8 8 = 0) : w.toNat < 256 := by
  have hlt := w.isLt
  have hhigh : (bits w 8 8).toNat = 0 := by simp [h]
  simp only [bits, BitVec.extractLsb'_toNat, Nat.shiftRight_eq_div_pow] at hhigh
  omega

/-- Settles O53: SMV only writes a register (R226), and psw(v) has no bit above bit 7 (R43). -/
theorem smvReadsTheTwoViews : Obligations.SmvReadsTheTwoViews := by
  intro dst s
  refine ⟨?_, s.writeNext_spec dst (s.psw .shadow), s.writeNext_spec dst (s.psw .normal), fun v => ?_⟩
  · rw [← s.pcOf_other_eq_ite]
    exact s.writeNext_spec dst (s.pcOf s.view.other)
  · obtain ⟨hn, hz, hv, hc, hS, hI, hu6, hu7, hhigh⟩ := s.psw_getLsbD v
    exact ⟨hn, hz, hv, hc, hS, hI, hu6, hu7, toNat_lt_of_highByte_zero hhigh⟩

/-! ### Reset -/

/-- Settles O13: the fields of the reset state, whose memory defines no word (R302). -/
theorem resetStateValues : Obligations.ResetStateValues :=
  ⟨rfl, rfl, rfl, rfl, rfl, reset_readWord⟩

end Sys2Proof.Machine
end

section
/-! SUPPORT. MUL and DIV: the 32-bit result in its two halves (10_state.md R34; 42_alu.md R171 to R174). -/

namespace Sys2Proof.Machine

theorem Reg.isEven_eq_decide (rd : Reg) : rd.isEven = decide (rd.toNat % 2 = 0) := by
  revert rd; decide

/-! ### A 32-bit value and its halves -/

theorem toNat_halves (p : DWord) :
    (p.extractLsb' 16 16).toNat * 2 ^ 16 + (p.extractLsb' 0 16).toNat = p.toNat := by
  have := p.isLt
  simp only [BitVec.extractLsb'_toNat, Nat.shiftRight_eq_div_pow]
  omega

theorem eq_zero_iff_halves (p : DWord) : p = 0 ↔ p.extractLsb' 16 16 = 0 ∧ p.extractLsb' 0 16 = 0 := by
  have hsum := toNat_halves p
  simp only [← BitVec.toNat_inj, BitVec.ofNat_eq_ofNat, BitVec.toNat_ofNat, Nat.zero_mod]
  omega

/-- N and Z of a 32-bit result, read off its halves (R171, R173). -/
theorem FlagBank.setNZ32_eq_halves (f : FlagBank) (p : DWord) :
    f.setNZ32 p = { f with
      n := (p.extractLsb' 16 16).getLsbD 15
      z := decide (p.extractLsb' 16 16 = 0 ∧ p.extractLsb' 0 16 = 0) } := by
  have hn : (p.extractLsb' 16 16).getLsbD 15 = p.getLsbD 31 := by simp
  rw [hn, FlagBank.setNZ32, FlagBank.kept_eq, decide_eq_decide.mpr (eq_zero_iff_halves p)]

theorem State.readPair_toNat (s : State) (rd : Reg) :
    (s.readPair rd).toNat = (s.readReg rd).toNat * 2 ^ 16 + (s.readReg (rd + 1)).toNat := by
  have := (s.readReg (rd + 1)).isLt
  rw [State.readPair, BitVec.toNat_append, ← Nat.shiftLeft_add_eq_or_of_lt this, Nat.shiftLeft_eq]

/-! ### The two functions, exact in 32 bits -/

theorem mulUnsigned_toNat (a b : Word) : (mulUnsigned a b).toNat = a.toNat * b.toNat := by
  have hlt : a.toNat * b.toNat < 2 ^ 16 * 2 ^ 16 := Nat.mul_lt_mul'' a.isLt b.isLt
  rw [mulUnsigned, BitVec.toNat_mul, BitVec.toNat_setWidth_of_le (by decide), BitVec.toNat_setWidth_of_le (by decide),
    Nat.mod_eq_of_lt (by omega)]

theorem divUnsigned_toNat (n : DWord) (b : Word) : (divUnsigned n b).toNat = n.toNat / b.toNat := by
  rw [divUnsigned, BitVec.toNat_udiv, BitVec.toNat_setWidth_of_le (by decide)]

/-! ### The instructions -/

/-- `pairNext` in numbers: the halves of `p` are the two words that make its value, and they carry its flags. -/
theorem State.pairNext_halves (s : State) {rd : Reg} (he : rd.isEven = true) (w : Bool) (p : DWord) :
    ∃ (t : State) (hi lo : Word), s.pairNext rd w p = .next t ∧ hi.toNat * 2 ^ 16 + lo.toNat = p.toNat ∧
      PairAndFlagsWritten s t rd w hi lo { s.flags with n := hi.getLsbD 15, z := decide (hi = 0 ∧ lo = 0) } := by
  obtain ⟨t, ht, hwritten⟩ := s.pairNext_spec rd he w p
  rw [FlagBank.setNZ32_eq_halves] at hwritten
  exact ⟨t, _, _, ht, toNat_halves p, hwritten⟩

theorem exec_mul_even {rd : Reg} (he : rd.isEven = true) (w : Bool) (b : Operand) (s : State) :
    exec (.mul rd w b) s = s.pairNext rd w (mulUnsigned (s.readReg rd) (s.operand b)) :=
  s.withPair_even he _

theorem exec_mul_odd {rd : Reg} (ho : rd.isEven = false) (w : Bool) (b : Operand) (s : State) :
    exec (.mul rd w b) s = .fault (.oddPair rd) :=
  s.withPair_odd ho _

theorem exec_div_even {rd : Reg} (he : rd.isEven = true) (w : Bool) (b : Operand) (s : State) :
    exec (.div rd w b) s =
      if s.operand b = 0 then .fault .divideByZero
      else s.pairNext rd w (divUnsigned (s.readPair rd) (s.operand b)) :=
  s.withPair_even he _

theorem exec_div_odd {rd : Reg} (ho : rd.isEven = false) (w : Bool) (b : Operand) (s : State) :
    exec (.div rd w b) s = .fault (.oddPair rd) :=
  s.withPair_odd ho _

/-- Settles O38: the product fits 32 bits, so its two halves are exact. -/
theorem mulResultAndFlags : Obligations.MulResultAndFlags := by
  intro rd w b s
  refine ⟨fun heven => ?_, fun hodd => exec_mul_odd (by simp [Reg.isEven_eq_decide, hodd]) w b s⟩
  have he : rd.isEven = true := by simp [Reg.isEven_eq_decide, heven]
  rw [exec_mul_even he, ← mulUnsigned_toNat]
  exact s.pairNext_halves he w _

/-- Settles O39: the quotient of the pair, the zero divisor and the odd Rd, in the order of R267. -/
theorem divResultAndFlags : Obligations.DivResultAndFlags := by
  intro rd w b s
  refine ⟨fun heven hb => ?_, fun heven hb => ?_, fun hodd => exec_div_odd (by simp [Reg.isEven_eq_decide, hodd]) w b s⟩
  · have he : rd.isEven = true := by simp [Reg.isEven_eq_decide, heven]
    rw [exec_div_even he, if_neg hb, ← State.readPair_toNat, ← divUnsigned_toNat]
    exact s.pairNext_halves he w _
  · have he : rd.isEven = true := by simp [Reg.isEven_eq_decide, heven]
    rw [exec_div_even he, if_pos hb]

end Sys2Proof.Machine
end

section
/-! SUPPORT. What an instruction and a step leave unchanged: the flags, the view that does not run, memory and CS (10_state.md R30, R41, R44, R50). Each frame is proved over the shapes of `Effect`, then carried to the step by `step_next`. -/

namespace Sys2Proof.Machine

/-! ### The flag banks -/

/-- No instruction writes the flag bank of the view that does not run (R44). -/
theorem exec_flagsOf_other {i : Instr} {s t : State} (h : exec i s = .next t) :
    t.flagsOf s.view.other = s.flagsOf s.view.other := by
  cases exec_effect h with
  | arithmetic _ _ w => cases w <;> simp
  | pair _ _ w => cases w <;> simp
  | halt => exact s.advance_flagsOf _
  | _ => simp

/-- Bank `g` differs from bank `f` only in flags that R44 lists for `i`, in U6 and U7 only for SET and CLR (R48). -/
def FlagsAsListed (i : Instr) (f g : FlagBank) : Prop :=
  (i.flagWrites.n = false → g.n = f.n) ∧
  (i.flagWrites.z = false → g.z = f.z) ∧
  (i.flagWrites.v = false → g.v = f.v) ∧
  (i.flagWrites.c = false → g.c = f.c) ∧
  ((∀ mask, i ≠ .set mask ∧ i ≠ .clr mask) → g.u6 = f.u6 ∧ g.u7 = f.u7)

theorem FlagsAsListed.of_eq {i : Instr} {f g : FlagBank} (h : g = f) : FlagsAsListed i f g := by
  subst h
  exact ⟨fun _ => rfl, fun _ => rfl, fun _ => rfl, fun _ => rfl, fun _ => ⟨rfl, rfl⟩⟩

theorem FlagsAsListed.set (mask : BitVec 8) (f g : FlagBank) : FlagsAsListed (.set mask) f g :=
  ⟨nofun, nofun, nofun, nofun, fun h => absurd rfl (h mask).1⟩

theorem FlagsAsListed.clr (mask : BitVec 8) (f g : FlagBank) : FlagsAsListed (.clr mask) f g :=
  ⟨nofun, nofun, nofun, nofun, fun h => absurd rfl (h mask).2⟩

theorem exec_flagsAsListed {i : Instr} {s t : State} (h : exec i s = .next t) :
    FlagsAsListed i s.flags (t.flagsOf s.view) := by
  cases exec_effect h with
  | arithmetic _ rd w r f hn hz hv hc hu6 hu7 =>
    have hbank : State.flagsOf (if w then (s.advance.setFlags f).writeReg rd r else s.advance.setFlags f) s.view = f := by
      cases w <;> simp
    rw [hbank]
    exact ⟨by simp [hn], by simp [hz], hv, hc, fun _ => ⟨hu6, hu7⟩⟩
  | pair _ rd w p hw =>
    have hbank : State.flagsOf (if w then (s.advance.setFlags (s.flags.setNZ32 p)).writePair rd p
        else s.advance.setFlags (s.flags.setNZ32 p)) s.view = s.flags.setNZ32 p := by
      cases w <;> simp
    rw [hbank]
    exact ⟨by simp [hw], by simp [hw], fun _ => rfl, fun _ => rfl, fun _ => ⟨rfl, rfl⟩⟩
  | setMask mask => exact .set ..
  | clearMask mask => exact .clr ..
  | halt => exact .of_eq (s.advance_flagsOf _)
  | _ => exact .of_eq (by simp [State.flags])

/-- Settles O26: the inactive bank by the frame of `exec`, the active one flag by flag. -/
theorem flagsChangeOnlyAsListed : Obligations.FlagsChangeOnlyAsListed :=
  fun _ _ _ h => ⟨exec_flagsOf_other h, exec_flagsAsListed h⟩

/-! ### The program counter of the view that does not run -/

theorem State.writeReg_pcOf_of_ne (s : State) (r : Reg) (v : Word) {u : View} (h : u ≠ s.view) :
    (s.writeReg r v).pcOf u = s.pcOf u := by
  simp [State.writeReg_pcOf, h]

theorem State.writePair_pcOf_of_ne (s : State) (rd : Reg) (p : DWord) {u : View} (h : u ≠ s.view) :
    (s.writePair rd p).pcOf u = s.pcOf u := by
  simp [State.writePair, State.writeReg_pcOf, h]

theorem State.advance_pcOf_other (s : State) : s.advance.pcOf s.view.other = s.pcOf s.view.other := by simp

/-- Of the instructions only SWI can write the program counter of the other view: from the normal view, by entering the trap (R41, R253). -/
theorem exec_pcOf_other {i : Instr} {s t : State} (h : exec i s = .next t) :
    t.pcOf s.view.other = s.pcOf s.view.other ∨
      s.view = .normal ∧ ∃ target, s.mem.readWord 1 = some target ∧ t = s.advance.trapTo target := by
  cases exec_effect h with
  | trap target htarget =>
    cases hview : s.view with
    | normal => exact .inr ⟨rfl, target, htarget, rfl⟩
    | shadow => exact .inl (by simp [View.other, hview])
  | register => exact .inl (by simp [State.writeReg_pcOf_of_ne])
  | arithmetic _ _ w => exact .inl (by cases w <;> simp [State.writeReg_pcOf_of_ne])
  | pair _ _ w => exact .inl (by cases w <;> simp [State.writePair_pcOf_of_ne])
  | longJump => exact .inl (by simp [State.writeReg_pcOf_of_ne])
  | halt => exact .inl s.advance_pcOf_other
  | _ => exact .inl (by simp)

/-! ### The view that does not run, over a step -/

/-- A step other than the reset event writes nothing of the other view, unless it enters a trap from the normal view (R41, R275). -/
theorem step_otherView {s t : State} (hreset : s.pins.resetLine = false) (h : step s = .next t) :
    t.flagsOf s.view.other = s.flagsOf s.view.other ∧
      (t.pcOf s.view.other = s.pcOf s.view.other ∨
        s.view = .normal ∧ ∃ u target, (s.mem.readWord 1 = some target ∨ s.mem.readWord 2 = some target) ∧
          t = State.trapTo u target) := by
  rcases step_next h with ⟨hr, -⟩ | ⟨-, -, rfl⟩ | ⟨-, -, -, target, htarget, rfl⟩ | ⟨-, -, -, w, -, hexec⟩
  · simp [hreset] at hr
  · exact ⟨s.sampled_flagsOf _, .inl (s.sampled_pcOf _)⟩
  · refine ⟨by simp, ?_⟩
    cases hview : s.view with
    | normal => exact .inr ⟨rfl, _, target, .inr htarget, rfl⟩
    | shadow => exact .inl (by simp [View.other])
  · have hflags := exec_flagsOf_other hexec
    have hpc := exec_pcOf_other hexec
    refine ⟨hflags, hpc.imp id ?_⟩
    rintro ⟨hview, target, htarget, rfl⟩
    exact ⟨hview, _, target, .inl htarget, rfl⟩

/-- Settles O20: from normal mode the shadow view is the one that does not run. -/
theorem shadowViewWrittenByTrapEntryOnly : Obligations.ShadowViewWrittenByTrapEntryOnly := by
  intro s t hS hreset h
  obtain ⟨hflags, hpc⟩ := step_otherView hreset h
  rw [State.view_eq_normal hS] at hflags hpc
  refine ⟨hflags, hpc.imp id ?_⟩
  rintro ⟨-, u, target, hvector, rfl⟩
  exact ⟨rfl, rfl, rfl, hvector⟩

/-- Settles O21: while S = 1 the normal view is the one that does not run. -/
theorem normalViewKeptInHandler : Obligations.NormalViewKeptInHandler := by
  intro s t hS hreset h
  obtain ⟨hflags, hpc⟩ := step_otherView hreset h
  rw [State.view_eq_shadow hS] at hflags hpc
  exact ⟨hpc.resolve_right (by simp), hflags⟩

/-! ### Memory -/

/-- Of the instructions only ST writes memory, and it stores one word (R78, R152). -/
theorem exec_memKept_or_store {i : Instr} {s t : State} (h : exec i s = .next t) :
    MemKept s t ∨ ∃ seg rd base offset, i = .st seg rd base offset ∧
      WordStored s t (s.dataAddr seg base offset) (s.readReg rd) := by
  cases exec_effect h with
  | store seg rd base offset => exact .inr ⟨seg, rd, base, offset, rfl, s.store_wordStored _ (by simp) _ _⟩
  | arithmetic _ _ w => exact .inl (.of_eq (by cases w <;> simp))
  | pair _ _ w => exact .inl (.of_eq (by cases w <;> simp))
  | halt => exact .inl (.of_eq s.advance_mem)
  | _ => exact .inl (.of_eq (by simp))

/-- Settles O24: the reset event, a halted core and the acceptance of the interrupt keep memory; an instruction is ST or keeps it. -/
theorem onlyStoreChangesMemory : Obligations.OnlyStoreChangesMemory := by
  intro s t h
  rcases step_next h with ⟨-, _, -, rfl⟩ | ⟨-, -, rfl⟩ | ⟨-, -, -, _, -, rfl⟩ | ⟨-, -, -, w, hw, hexec⟩
  · exact .inl (.of_eq rfl)
  · exact .inl (.of_eq rfl)
  · exact .inl (.of_eq rfl)
  · refine (exec_memKept_or_store hexec).imp id ?_
    rintro ⟨seg, rd, base, offset, hi, hstored⟩
    exact ⟨w, seg, rd, base, offset, hw, hi, hstored⟩

/-! ### CS -/

/-- Of the instructions only SWI, LJMP and MVS to CS write CS (R50, R210, R224, R270). -/
theorem exec_cs {i : Instr} {s t : State} (h : exec i s = .next t) :
    t.cs = s.cs ∨ i = .swi ∧ t.cs = 0 ∨
      (∃ rs, i = .ljmp rs ∧ s.mem.readWord (s.phys .ds (s.readReg rs)) = some t.cs) ∨
      ∃ rd, i = .mvsToSeg rd .cs ∧ t.cs = s.readReg rd := by
  cases exec_effect h with
  | trap => exact .inr (.inl ⟨rfl, rfl⟩)
  | longJump rs newCs newPc hcs => exact .inr (.inr (.inl ⟨rs, rfl, hcs⟩))
  | segment rd seg =>
    cases seg with
    | cs => exact .inr (.inr (.inr ⟨rd, rfl, rfl⟩))
    | ds => exact .inl s.advance_cs
    | ss => exact .inl s.advance_cs
    | es => exact .inl s.advance_cs
  | arithmetic _ _ w => exact .inl (by cases w <;> simp)
  | pair _ _ w => exact .inl (by cases w <;> simp)
  | halt => exact .inl s.advance_cs
  | _ => exact .inl (by simp)

/-- Settles O25: the reset event and the interrupt's trap entry leave CS = 0; otherwise one of the three instructions wrote it. -/
theorem csChangedOnlyAsListed : Obligations.CsChangedOnlyAsListed := by
  intro s t h hne
  rcases step_next h with ⟨hr, _, -, rfl⟩ | ⟨-, -, rfl⟩ | ⟨-, -, hirq, _, -, rfl⟩ | ⟨-, -, -, w, hw, hexec⟩
  · exact .inl ⟨rfl, .inl hr⟩
  · exact absurd rfl hne
  · exact .inl ⟨rfl, .inr hirq⟩
  · exact .inr ⟨w, hw, (exec_cs hexec).resolve_left hne⟩

end Sys2Proof.Machine
end

section
/-! SUPPORT. The I bit: what it gates and what writes it (10_state.md R46; 60_exceptions.md R266, R271). -/

namespace Sys2Proof.Machine

/-! ### What it gates -/

/-- Of the schedule a step reads only this boundary's reset level, whether the interrupt is taken, and what is left (R11). -/
theorem step_congr {s t : State} (hsampled : s.sampled = t.sampled) (hreset : s.pins.resetLine = t.pins.resetLine)
    (hirq : s.irqTaken = t.irqTaken) : step s = step t := by
  have hhalted : s.halted = t.halted := by simpa using congrArg State.halted hsampled
  simp only [step, cycle, hsampled, hreset, hirq, hhalted]

/-- With I = 0 a step does not depend on the level of the line (R46). -/
theorem step_ignores_masked_line {s : State} {p : Pins} {rest : List Pins} (hI : s.iBit = false)
    (hinputs : s.inputs = p :: rest) : step s = step { s with inputs := { p with irqLine := false } :: rest } := by
  refine step_congr ?_ ?_ ?_
  · simp [State.sampled_eq, hinputs]
  · simp [State.pins, hinputs]
  · simp [State.irqTaken_eq, hI]

/-! ### SET and CLR of a mask without flags -/

theorem flagsKept_of_flagsOf {s t : State} (h : ∀ v, t.flagsOf v = s.flagsOf v) : FlagsKept s t :=
  ⟨h .normal, h .shadow⟩

/-- The bank that SET writes (R220). -/
theorem FlagBank.ofByte_psw_or (s : State) (v : View) (mask : Byte) :
    FlagBank.ofByte (bits (s.psw v) 0 8 ||| mask) =
      { n := (s.flagsOf v).n || mask.getLsbD 0, z := (s.flagsOf v).z || mask.getLsbD 1,
        v := (s.flagsOf v).v || mask.getLsbD 2, c := (s.flagsOf v).c || mask.getLsbD 3,
        u6 := (s.flagsOf v).u6 || mask.getLsbD 6, u7 := (s.flagsOf v).u7 || mask.getLsbD 7 } := by
  obtain ⟨hn, hz, hv, hc, -, -, hu6, hu7, -⟩ := s.psw_getLsbD v
  simp (disch := decide) only [FlagBank.ofByte, getLsbD_psw_or, hn, hz, hv, hc, hu6, hu7]

/-- The bank that CLR writes (R221). -/
theorem FlagBank.ofByte_psw_andNot (s : State) (v : View) (mask : Byte) :
    FlagBank.ofByte (bits (s.psw v) 0 8 &&& ~~~mask) =
      { n := (s.flagsOf v).n && !mask.getLsbD 0, z := (s.flagsOf v).z && !mask.getLsbD 1,
        v := (s.flagsOf v).v && !mask.getLsbD 2, c := (s.flagsOf v).c && !mask.getLsbD 3,
        u6 := (s.flagsOf v).u6 && !mask.getLsbD 6, u7 := (s.flagsOf v).u7 && !mask.getLsbD 7 } := by
  obtain ⟨hn, hz, hv, hc, -, -, hu6, hu7, -⟩ := s.psw_getLsbD v
  simp (disch := decide) only [FlagBank.ofByte, getLsbD_psw_andNot, hn, hz, hv, hc, hu6, hu7]

/-- A status byte whose flag bits are those of the active bank changes no flag. -/
theorem State.writePswLow_flagsKept {s : State} {p : Byte} (h : FlagBank.ofByte p = s.flagsOf s.view) :
    FlagsKept s (s.advance.writePswLow s.view p) := by
  refine flagsKept_of_flagsOf fun u => ?_
  rw [State.writePswLow_flagsOf, State.advance_flagsOf]
  split_ifs with hu
  · rw [h, hu]
  · rfl

/-- SET of mask 0x20: I <- 1, S and the flags kept (R46, R220). -/
theorem exec_set_iMask (s : State) :
    ∃ t, exec (.set 0x20) s = .next t ∧ t.iBit = true ∧ t.sBit = s.sBit ∧ FlagsKept s t := by
  obtain ⟨-, -, -, -, hS, -⟩ := s.psw_getLsbD s.view
  refine ⟨_, exec_set 0x20 s, ?_, ?_, State.writePswLow_flagsKept ?_⟩
  · rw [State.writePswLow_iBit, getLsbD_psw_or _ _ (by decide)]
    simp
  · rw [State.writePswLow_sBit, getLsbD_psw_or _ _ (by decide), hS]
    simp
  · rw [FlagBank.ofByte_psw_or]
    simp

/-- CLR of mask 0x20: I <- 0, S and the flags kept (R46, R221). -/
theorem exec_clr_iMask (s : State) :
    ∃ t, exec (.clr 0x20) s = .next t ∧ t.iBit = false ∧ t.sBit = s.sBit ∧ FlagsKept s t := by
  obtain ⟨-, -, -, -, hS, -⟩ := s.psw_getLsbD s.view
  refine ⟨_, exec_clr 0x20 s, ?_, ?_, State.writePswLow_flagsKept ?_⟩
  · rw [State.writePswLow_iBit, getLsbD_psw_andNot _ _ (by decide)]
    simp
  · rw [State.writePswLow_sBit, getLsbD_psw_andNot _ _ (by decide), hS]
    simp
  · rw [FlagBank.ofByte_psw_andNot]
    simp

/-! ### Traps -/

theorem enterTrap_iBit {k : Nat} {s t : State} (h : enterTrap k s = .next t) : t.iBit = false := by
  obtain ⟨target, -, rfl⟩ := enterTrap_next h
  rfl

/-- SWI enters through the word of vector 1, whatever I is (R253, R266). -/
theorem exec_swi_of_vector (s : State) {target : Word} (h : s.mem.readWord 1 = some target) :
    exec .swi s = .next (s.advance.trapTo target) :=
  enterTrap_of_vector (by simpa using h)

/-- Settles O18: what I gates, then each operation that writes I, then SWI, which does not look at it. -/
theorem interruptEnableBit : Obligations.InterruptEnableBit :=
  ⟨fun _ _ _ => step_ignores_masked_line, fun _ _ _ => enterTrap_iBit, fun s => ⟨_, exec_reti s, rfl⟩,
    exec_set_iMask, exec_clr_iMask,
    fun s i _ h => ⟨_, exec_swi_of_vector { s with iBit := i } h, rfl, rfl⟩⟩

end Sys2Proof.Machine
end

section
/-! SUPPORT. Memory: the physical address, what ST and LD do at it, and the canonical form along every step (20_memory.md R70 to R86; 41_load_store.md R150, R152). -/

namespace Sys2Proof.Machine

/-! ### The physical address -/

/-- The physical address as a number: 16 words per unit of the segment, modulo 2^20 (R72, D1, D2). -/
theorem State.phys_toNat (s : State) (seg : Seg) (ea : Word) :
    (s.phys seg ea).toNat = ((s.segOf seg).toNat * 16 + ea.toNat) % 2 ^ 20 := by
  have hseg := (s.segOf seg).isLt
  have hea := ea.isLt
  simp only [State.phys, physOf_eq, BitVec.toNat_add, BitVec.toNat_shiftLeft, BitVec.toNat_setWidth,
    Nat.shiftLeft_eq]
  omega

/-- Two pairs of segment value and effective address that agree before the wrap name one word. -/
theorem State.phys_eq_of_sum_eq {s t : State} {a b : Seg} {ea fa : Word}
    (h : (s.segOf a).toNat * 16 + ea.toNat = (t.segOf b).toNat * 16 + fa.toNat) : s.phys a ea = t.phys b fa := by
  apply BitVec.eq_of_toNat_eq
  rw [State.phys_toNat, State.phys_toNat, h]

/-- Settles O11: one unit of the segment is worth the 16 words by which the effective addresses differ. -/
theorem physicalAddressFormed : Obligations.PhysicalAddressFormed :=
  ⟨State.phys_toNat, fun _ _ _ _ _ hseg hea => State.phys_eq_of_sum_eq (by omega)⟩

/-! ### ST and LD -/

/-- ST to one of the next two words of the instruction stream stops (R86). -/
theorem exec_st_hazard {s : State} {seg : Seg} {rd base : Reg} {offset : BitVec 2}
    (h : s.storeHazard (s.dataAddr seg base offset) = true) :
    exec (.st seg rd base offset) s = .fault (.fetchHazard (s.dataAddr seg base offset)) := by
  rw [exec_st, if_pos h]

/-- ST anywhere else goes on with its one word stored (R152). -/
theorem exec_st_safe {s : State} {seg : Seg} {rd base : Reg} {offset : BitVec 2}
    (h : s.storeHazard (s.dataAddr seg base offset) = false) :
    exec (.st seg rd base offset) s = .next (s.advance.store (s.dataAddr seg base offset) (s.readReg rd)) := by
  rw [exec_st, if_neg (by simp [h])]

/-- ST read backwards: where it goes on, the word its operands address holds Rd (R152). -/
theorem exec_st_next {s t : State} {seg : Seg} {rd base : Reg} {offset : BitVec 2}
    (h : exec (.st seg rd base offset) s = .next t) :
    WordStored s t (s.dataAddr seg base offset) (s.readReg rd) := by
  cases hhazard : s.storeHazard (s.dataAddr seg base offset) with
  | true => rw [exec_st_hazard hhazard] at h; cases h
  | false =>
    rw [exec_st_safe hhazard] at h
    cases h
    exact s.store_wordStored s.advance s.advance_mem _ _

/-- LD of a defined word writes that word to Rd and nothing else (R151). -/
theorem exec_ld_defined {s : State} {seg : Seg} {base : Reg} {offset : BitVec 2} {v : Word} (rd : Reg)
    (h : s.mem.readWord (s.dataAddr seg base offset) = some v) :
    ∃ t, exec (.ld seg rd base offset) s = .next t ∧ OnlyRegWritten s t rd v := by
  rw [exec_ld, State.load_some h]
  exact s.writeNext_spec rd v

/-- Settles O32: `storeHazard` decides between the two clauses, and the frame of a store is that of `advance`. -/
theorem storeWritesOneWord : Obligations.StoreWritesOneWord := by
  rintro seg rd base offset s pa rfl
  refine ⟨fun h1 h2 => ?_, fun h => exec_st_hazard ((s.storeHazard_iff _).mpr h)⟩
  have hsafe : s.storeHazard (s.dataAddr seg base offset) = false :=
    Bool.eq_false_iff.mpr fun h => ((s.storeHazard_iff _).mp h).elim h1 h2
  obtain ⟨hregs, hpc, hflags, hmode, hsegs, -⟩ := s.advance_spec
  exact ⟨_, exec_st_safe hsafe, s.store_wordStored s.advance s.advance_mem _ _, hregs, hpc, hflags, hmode, hsegs⟩

/-- Settles O33: the store left the value at the word that the load addresses. -/
theorem loadAfterStore : Obligations.LoadAfterStore := by
  intro seg seg' rd base rd' base' offset offset' s t hst haddr
  obtain ⟨hword, -⟩ := exec_st_next hst
  have haddr : t.dataAddr seg' base' offset' = s.dataAddr seg base offset := haddr
  exact exec_ld_defined rd' (by rw [haddr, hword])

/-! ### The canonical form -/

/-- An instruction leaves the list of cells as it is, or stores one word into it (R78). -/
theorem exec_mem {i : Instr} {s t : State} (h : exec i s = .next t) :
    t.mem = s.mem ∨ ∃ pa v, t.mem = s.mem.writeWord pa v := by
  cases exec_effect h with
  | store seg rd base offset => exact .inr ⟨s.dataAddr seg base offset, s.readReg rd, by simp⟩
  | arithmetic _ _ w => exact .inl (by cases w <;> simp)
  | pair _ _ w => exact .inl (by cases w <;> simp)
  | halt => exact .inl s.advance_mem
  | _ => exact .inl (by simp)

theorem State.Good.of_mem_eq {s t : State} (hs : s.Good) (h : t.mem = s.mem) : t.Good := by
  rw [State.Good, h]
  exact hs

theorem exec_good {i : Instr} {s t : State} (hs : s.Good) (h : exec i s = .next t) : t.Good := by
  rcases exec_mem h with hmem | ⟨pa, v, hmem⟩
  · exact hs.of_mem_eq hmem
  · rw [State.Good, hmem]
    exact Memory.wf_writeWord pa v hs

/-- Settles O14: memory lists no cell after reset. -/
theorem resetStateIsGood : Obligations.ResetStateIsGood :=
  State.reset_mem_wf

/-- Settles O15: the reset event, a halted core and the acceptance of the interrupt keep memory; the rest is the instruction. -/
theorem stepKeepsGood : Obligations.StepKeepsGood := by
  intro s t hs h
  rcases step_next h with ⟨-, _, -, rfl⟩ | ⟨-, -, rfl⟩ | ⟨-, -, -, _, -, rfl⟩ | ⟨-, -, -, w, -, hexec⟩
  · exact hs.of_mem_eq rfl
  · exact hs.of_mem_eq rfl
  · exact hs.of_mem_eq rfl
  · have hsampled : s.sampled.Good := hs.of_mem_eq rfl
    exact exec_good hsampled hexec

end Sys2Proof.Machine
end

section
/-! SUPPORT. The number of a packed word and of its fields, and the opcode groups: the top bits of a word name its decoder (30_encoding.md R100 to R105). -/

namespace Sys2Proof

/-! ### Numbers of words and fields -/

/-- How many bits the fields fill. -/
def totalWidth (l : List Field) : Nat :=
  (l.map Sigma.fst).sum

theorem packNat_lt (l : List Field) (acc : Nat) : packNat l acc < (acc + 1) * 2 ^ totalWidth l := by
  induction l generalizing acc with
  | nil => simp [packNat, totalWidth]
  | cons field rest ih =>
    obtain ⟨n, v⟩ := field
    have hstep : acc * 2 ^ n + v.toNat + 1 ≤ (acc + 1) * 2 ^ n := by
      have := v.isLt
      rw [Nat.add_one_mul]
      omega
    calc packNat (⟨n, v⟩ :: rest) acc < (acc * 2 ^ n + v.toNat + 1) * 2 ^ totalWidth rest := ih _
      _ ≤ (acc + 1) * 2 ^ n * 2 ^ totalWidth rest := Nat.mul_le_mul_right _ hstep
      _ = (acc + 1) * 2 ^ totalWidth (⟨n, v⟩ :: rest) := by simp [totalWidth, Nat.pow_add, Nat.mul_assoc]

/-- Fields that fill a word lose no bit in it (R101). -/
theorem pack_toNat_of_totalWidth {l : List Field} (h : totalWidth l = 16) : (pack l).toNat = packNat l 0 :=
  pack_toNat l (by simpa [h] using packNat_lt l 0)

/-- Two fields that fill a word, side by side (R101). -/
theorem pack_two {n m : Nat} (h : n + m = 16) (x : BitVec n) (y : BitVec m) :
    pack [⟨n, x⟩, ⟨m, y⟩] = (x ++ y).cast h := by
  apply BitVec.eq_of_toNat_eq
  rw [pack_toNat_of_totalWidth (by simpa [totalWidth] using h), BitVec.toNat_cast, toNat_append_eq]
  simp [packNat]

/-- Three fields that fill a word, side by side (R101). -/
theorem pack_three {n m k : Nat} (h : n + m + k = 16) (x : BitVec n) (y : BitVec m) (z : BitVec k) :
    pack [⟨n, x⟩, ⟨m, y⟩, ⟨k, z⟩] = (x ++ y ++ z).cast h := by
  apply BitVec.eq_of_toNat_eq
  rw [pack_toNat_of_totalWidth (by simpa [totalWidth, Nat.add_assoc] using h), BitVec.toNat_cast, toNat_append_eq,
    toNat_append_eq]
  simp [packNat]

theorem bits_toNat (w : Word) (lo len : Nat) : (bits w lo len).toNat = w.toNat / 2 ^ lo % 2 ^ len := by
  simp [bits, Nat.shiftRight_eq_div_pow]

theorem bit_toNat (w : Word) (k : Nat) : (w.getLsbD k).toNat = w.toNat / 2 ^ k % 2 := by
  rw [bit_eq]
  rcases Nat.mod_two_eq_zero_or_one (w.toNat / 2 ^ k) with h | h <;> simp [h]

/-- A bit read off the word's number. -/
theorem bit_eq_of_toNat {w : Word} {k : Nat} {b : Bool} (h : w.toNat / 2 ^ k % 2 = b.toNat) : w.getLsbD k = b := by
  cases b with
  | false => exact bit_false h
  | true => exact bit_true h

theorem spareReserved_eq (w : Word) : spareReserved w = w.getLsbD 0 := by
  simp [spareReserved, Machine.params]

theorem spareReserved_of_even {w : Word} (h : w.toNat % 2 = 0) : spareReserved w = false := by
  rw [spareReserved_eq, bit_false (by omega)]

theorem spareReserved_of_odd {w : Word} (h : w.toNat % 2 = 1) : spareReserved w = true := by
  rw [spareReserved_eq, bit_true (by omega)]

theorem encodeWord_eq (i : Instr) : encodeWord i = encodeLayout i := rfl

/-! ### The opcode group

A word's top bits name its group, and the group its decoder (R105). -/

section
variable {w : Word}

theorem decodeWord_ldi (h : w.toNat / 2 ^ 15 = 0) : decodeWord w = .ldi (bits w 0 15) := by
  rw [decodeWord, toLayout_eq, decodeLayout, leadingOnes_of_top (n := 0) (by decide) h]
  rfl

theorem decodeWord_loadStore (h : w.toNat / 2 ^ 14 = 0b10) : decodeWord w = decodeLoadStore w := by
  rw [decodeWord, toLayout_eq, decodeLayout, leadingOnes_of_top (n := 1) (by decide) h]
  rfl

theorem decodeWord_alu (h : w.toNat / 2 ^ 13 = 0b110) : decodeWord w = decodeAlu w := by
  rw [decodeWord, toLayout_eq, decodeLayout, leadingOnes_of_top (n := 2) (by decide) h]
  rfl

theorem decodeWord_jump (h : w.toNat / 2 ^ 12 = 0b1110) : decodeWord w = decodeJump w := by
  rw [decodeWord, toLayout_eq, decodeLayout, leadingOnes_of_top (n := 3) (by decide) h]
  rfl

theorem decodeWord_lsi (h : w.toNat / 2 ^ 11 = 0b11110) : decodeWord w = .lsi (bits w 7 4) (bits w 0 7) := by
  rw [decodeWord, toLayout_eq, decodeLayout, leadingOnes_of_top (n := 4) (by decide) h]
  rfl

theorem decodeWord_mov (h : w.toNat / 2 ^ 10 = 0b111110) :
    decodeWord w = .mov (bits w 6 4) (bits w 2 4) (bits w 0 2) := by
  rw [decodeWord, toLayout_eq, decodeLayout, leadingOnes_of_top (n := 5) (by decide) h]
  rfl

theorem decodeWord_mask (h : w.toNat / 2 ^ 9 = 0b1111110) :
    decodeWord w = if w.getLsbD 8 then .set (bits w 0 8) else .clr (bits w 0 8) := by
  rw [decodeWord, toLayout_eq, decodeLayout, leadingOnes_of_top (n := 6) (by decide) h]
  rfl

theorem decodeWord_opcode (h : w.toNat / 2 ^ 8 = 0b11111110) : decodeWord w = .reservedOpcode (bits w 0 8) := by
  rw [decodeWord, toLayout_eq, decodeLayout, leadingOnes_of_top (n := 7) (by decide) h]
  rfl

theorem decodeWord_mvs (h : w.toNat / 2 ^ 7 = 0b111111110) : decodeWord w = decodeMvs w := by
  rw [decodeWord, toLayout_eq, decodeLayout, leadingOnes_of_top (n := 8) (by decide) h]
  rfl

theorem decodeWord_smv (h : w.toNat / 2 ^ 6 = 0b1111111110) : decodeWord w = decodeSmv w := by
  rw [decodeWord, toLayout_eq, decodeLayout, leadingOnes_of_top (n := 9) (by decide) h]
  rfl

theorem decodeWord_bytes (h : w.toNat / 2 ^ 5 = 0b11111111110) :
    decodeWord w = if w.getLsbD 4 then .inv (bits w 0 4) else .swb (bits w 0 4) := by
  rw [decodeWord, toLayout_eq, decodeLayout, leadingOnes_of_top (n := 10) (by decide) h]
  rfl

theorem decodeWord_ljmp (h : w.toNat / 2 ^ 4 = 0b111111111110) : decodeWord w = .ljmp (bits w 0 4) := by
  rw [decodeWord, toLayout_eq, decodeLayout, leadingOnes_of_top (n := 11) (by decide) h]
  rfl

theorem decodeWord_sys (h : w.toNat / 2 ^ 3 = 0b1111111111110) : decodeWord w = decodeSys w := by
  rw [decodeWord, toLayout_eq, decodeLayout, leadingOnes_of_top (n := 12) (by decide) h]
  rfl

theorem decodeWord_ones (h : w.toNat / 2 ^ 3 = 0b1111111111111) : decodeWord w = .reservedOnes (bits w 0 3) := by
  have hones := leadingOnes_of_ones h
  rw [decodeWord, toLayout_eq, decodeLayout]
  split
  case h_14 => rfl
  all_goals omega

end

/-- The partition of all words into the opcode groups (R105): what holds of every group's decoding holds of every decoding. -/
theorem decodeWord_cases {P : Instr → Prop} (w : Word)
    (ldi : w.toNat / 2 ^ 15 = 0 → P (.ldi (bits w 0 15)))
    (loadStore : w.toNat / 2 ^ 14 = 0b10 → P (decodeLoadStore w))
    (alu : w.toNat / 2 ^ 13 = 0b110 → P (decodeAlu w))
    (jump : w.toNat / 2 ^ 12 = 0b1110 → P (decodeJump w))
    (lsi : w.toNat / 2 ^ 11 = 0b11110 → P (.lsi (bits w 7 4) (bits w 0 7)))
    (mov : w.toNat / 2 ^ 10 = 0b111110 → P (.mov (bits w 6 4) (bits w 2 4) (bits w 0 2)))
    (mask : w.toNat / 2 ^ 9 = 0b1111110 → P (if w.getLsbD 8 then .set (bits w 0 8) else .clr (bits w 0 8)))
    (opcode : w.toNat / 2 ^ 8 = 0b11111110 → P (.reservedOpcode (bits w 0 8)))
    (mvs : w.toNat / 2 ^ 7 = 0b111111110 → P (decodeMvs w))
    (smv : w.toNat / 2 ^ 6 = 0b1111111110 → P (decodeSmv w))
    (bytes : w.toNat / 2 ^ 5 = 0b11111111110 → P (if w.getLsbD 4 then .inv (bits w 0 4) else .swb (bits w 0 4)))
    (ljmp : w.toNat / 2 ^ 4 = 0b111111111110 → P (.ljmp (bits w 0 4)))
    (sys : w.toNat / 2 ^ 3 = 0b1111111111110 → P (decodeSys w))
    (ones : w.toNat / 2 ^ 3 = 0b1111111111111 → P (.reservedOnes (bits w 0 3))) : P (decodeWord w) := by
  have hgroup : w.toNat / 2 ^ 15 = 0 ∨ w.toNat / 2 ^ 14 = 0b10 ∨ w.toNat / 2 ^ 13 = 0b110 ∨
      w.toNat / 2 ^ 12 = 0b1110 ∨ w.toNat / 2 ^ 11 = 0b11110 ∨ w.toNat / 2 ^ 10 = 0b111110 ∨
      w.toNat / 2 ^ 9 = 0b1111110 ∨ w.toNat / 2 ^ 8 = 0b11111110 ∨ w.toNat / 2 ^ 7 = 0b111111110 ∨
      w.toNat / 2 ^ 6 = 0b1111111110 ∨ w.toNat / 2 ^ 5 = 0b11111111110 ∨ w.toNat / 2 ^ 4 = 0b111111111110 ∨
      w.toNat / 2 ^ 3 = 0b1111111111110 ∨ w.toNat / 2 ^ 3 = 0b1111111111111 := by
    omega
  rcases hgroup with h | h | h | h | h | h | h | h | h | h | h | h | h | h
  · rw [decodeWord_ldi h]; exact ldi h
  · rw [decodeWord_loadStore h]; exact loadStore h
  · rw [decodeWord_alu h]; exact alu h
  · rw [decodeWord_jump h]; exact jump h
  · rw [decodeWord_lsi h]; exact lsi h
  · rw [decodeWord_mov h]; exact mov h
  · rw [decodeWord_mask h]; exact mask h
  · rw [decodeWord_opcode h]; exact opcode h
  · rw [decodeWord_mvs h]; exact mvs h
  · rw [decodeWord_smv h]; exact smv h
  · rw [decodeWord_bytes h]; exact bytes h
  · rw [decodeWord_ljmp h]; exact ljmp h
  · rw [decodeWord_sys h]; exact sys h
  · rw [decodeWord_ones h]; exact ones h

end Sys2Proof
end

section
/-! SUPPORT. What a word of each format decodes to (30_encoding.md R102 to R113): its number, then the fields read off that number. -/

namespace Sys2Proof

/-- The number of a row's word is the one its fields spell. -/
theorem encodeWord_toNat {i : Instr} {l : List Field} {n : Nat} (hi : encodeLayout i = pack l) (hl : totalWidth l = 16)
    (hn : packNat l 0 = n := by simp only [packNat, BitVec.ofNat_eq_ofNat, BitVec.toNat_ofNat]; omega) :
    (encodeWord i).toNat = n := by
  rw [encodeWord_eq, hi, pack_toNat_of_totalWidth hl, hn]

/-- A one-bit field read off the word's number. -/
theorem bit_eq_field {w : Word} {k : Nat} {d : BitVec 1} (h : w.toNat / 2 ^ k % 2 = d.toNat) :
    w.getLsbD k = d.getLsbD 0 := by
  have hd : ∀ d : BitVec 1, d.toNat = (d.getLsbD 0).toNat := by decide
  exact bit_eq_of_toNat (h.trans (hd d))

/-! ### LD and ST -/

theorem encodeLoadStore_toNat (store : BitVec 1) (seg : Seg) (rd base : Reg) (offset : BitVec 2) :
    (encodeLoadStore store seg rd base offset).toNat =
      0b10 * 2 ^ 14 + store.toNat * 2 ^ 13 + seg.code.toNat * 2 ^ 11 + rd.toNat * 2 ^ 7 + base.toNat * 2 ^ 3 +
        offset.toNat * 2 := by
  rw [encodeLoadStore, pack_toNat_of_totalWidth rfl]
  simp only [packNat, BitVec.ofNat_eq_ofNat, BitVec.toNat_ofNat]
  omega

theorem decodeWord_encodeLoadStore (store : BitVec 1) (seg : Seg) (rd base : Reg) (offset : BitVec 2) :
    decodeWord (encodeLoadStore store seg rd base offset) =
      if store.getLsbD 0 then .st seg rd base offset else .ld seg rd base offset := by
  have hw := encodeLoadStore_toNat store seg rd base offset
  generalize encodeLoadStore store seg rd base offset = w at hw
  rw [decodeWord_loadStore (by omega), decodeLoadStore, spareReserved_of_even (by omega),
    bit_eq_field (k := 13) (d := store) (by omega), bits_eq w 11 2 seg.code (by omega),
    bits_eq w 7 4 rd (by omega), bits_eq w 3 4 base (by omega), bits_eq w 1 2 offset (by omega), Seg.ofCode_code]
  rfl

theorem decodeWord_encodeWord_reservedLdSt (low : BitVec 13) :
    decodeWord (encodeWord (.reservedLdSt low)) = .reservedLdSt low := by
  have hw : (encodeWord (.reservedLdSt low)).toNat = 0b10 * 2 ^ 14 + low.toNat * 2 + 1 := encodeWord_toNat rfl rfl
  generalize encodeWord _ = w at hw
  rw [decodeWord_loadStore (by omega), decodeLoadStore, if_pos (spareReserved_of_odd (by omega)),
    bits_eq w 1 13 low (by omega)]

/-! ### The ALU format and the shifts -/

/-- Bits 4:0 of the ALU format as a number: i, then Rs or imm4 (R102, R107). -/
def Operand.number : Operand → Nat
  | .reg rs => rs.toNat
  | .imm v => 2 ^ 4 + v.toNat

theorem Operand.packNat_fields (b : Operand) (acc : Nat) : packNat b.fields acc = acc * 2 ^ 5 + b.number := by
  cases b <;> simp [Operand.fields, Operand.number, packNat] <;> omega

theorem Operand.ofBits_eq {w : Word} {b : Operand} (h : w.toNat % 2 ^ 5 = b.number) : Operand.ofBits w = b := by
  cases b with
  | reg rs =>
    simp only [Operand.number] at h
    rw [Operand.ofBits, bit_false (by omega), bits_eq w 0 4 rs (by omega)]
    rfl
  | imm v =>
    simp only [Operand.number] at h
    rw [Operand.ofBits, bit_true (by omega), bits_eq w 0 4 v (by omega)]
    rfl

theorem encodeAlu_toNat (op : BitVec 3) (rd : Reg) (writes : Bool) (b : Operand) :
    (encodeAlu op rd writes b).toNat =
      0b110 * 2 ^ 13 + op.toNat * 2 ^ 10 + rd.toNat * 2 ^ 6 + writes.toNat * 2 ^ 5 + b.number := by
  rw [encodeAlu, pack_toNat_of_totalWidth (by cases b <;> rfl)]
  simp only [List.cons_append, List.nil_append, packNat, Operand.packNat_fields, BitVec.ofNat_eq_ofNat,
    BitVec.toNat_ofNat, BitVec.toNat_ofBool]
  omega

theorem Operand.number_lt (b : Operand) : b.number < 2 ^ 5 := by
  cases b <;> simp only [Operand.number] <;> omega

theorem decodeWord_encodeAlu (op : BitVec 3) (rd : Reg) (writes : Bool) (b : Operand) :
    decodeWord (encodeAlu op rd writes b) = decodeAlu (encodeAlu op rd writes b) ∧
    bits (encodeAlu op rd writes b) 10 3 = op ∧ bits (encodeAlu op rd writes b) 6 4 = rd ∧
    (encodeAlu op rd writes b).getLsbD 5 = writes ∧ Operand.ofBits (encodeAlu op rd writes b) = b := by
  have hw := encodeAlu_toNat op rd writes b
  generalize encodeAlu op rd writes b = w at hw
  have hb := b.number_lt
  have hwrites := writes.toNat_lt
  exact ⟨decodeWord_alu (by omega), bits_eq w 10 3 op (by omega), bits_eq w 6 4 rd (by omega),
    bit_eq_of_toNat (by omega), Operand.ofBits_eq (by omega)⟩

theorem encodeShift_toNat (c : BitVec 1) (t : BitVec 2) (rd : Reg) (count : BitVec 3) :
    (encodeShift c t rd count).toNat =
      0b110111 * 2 ^ 10 + rd.toNat * 2 ^ 6 + c.toNat * 2 ^ 5 + t.toNat * 2 ^ 3 + count.toNat := by
  rw [encodeShift, pack_toNat_of_totalWidth rfl]
  simp only [packNat, BitVec.ofNat_eq_ofNat, BitVec.toNat_ofNat]
  omega

theorem decodeWord_encodeShift (c : BitVec 1) (t : BitVec 2) (rd : Reg) (count : BitVec 3) :
    decodeWord (encodeShift c t rd count) = decodeShift (encodeShift c t rd count) ∧
    bits (encodeShift c t rd count) 6 4 = rd ∧ bits (encodeShift c t rd count) 3 3 = c ++ t ∧
    bits (encodeShift c t rd count) 0 3 = count := by
  have hw := encodeShift_toNat c t rd count
  generalize encodeShift c t rd count = w at hw
  refine ⟨?_, bits_eq w 6 4 rd (by omega), bits_eq w 3 3 (c ++ t) ?_, bits_eq w 0 3 count (by omega)⟩
  · rw [decodeWord_alu (by omega), decodeAlu, bits_eq w 10 3 0b111 (by simp; omega)]
    rfl
  · rw [toNat_append_eq]
    omega

/-! ### The jumps -/

theorem encodeJump_toNat (type : BitVec 3) (target : BitVec 8) :
    (encodeJump type target).toNat = 0b1110 * 2 ^ 12 + type.toNat * 2 ^ 9 + target.toNat * 2 := by
  rw [encodeJump, pack_toNat_of_totalWidth rfl]
  simp only [packNat, BitVec.ofNat_eq_ofNat, BitVec.toNat_ofNat]
  omega

theorem decodeWord_encodeJump (type : BitVec 3) (target : BitVec 8) :
    decodeWord (encodeJump type target) = decodeJump (encodeJump type target) ∧
    spareReserved (encodeJump type target) = false ∧ bits (encodeJump type target) 9 3 = type ∧
    bits (encodeJump type target) 1 8 = target := by
  have hw := encodeJump_toNat type target
  generalize encodeJump type target = w at hw
  exact ⟨decodeWord_jump (by omega), spareReserved_of_even (by omega), bits_eq w 9 3 type (by omega),
    bits_eq w 1 8 target (by omega)⟩

theorem decodeWord_encodeWord_reservedJump (low : BitVec 11) :
    decodeWord (encodeWord (.reservedJump low)) = .reservedJump low := by
  have hw : (encodeWord (.reservedJump low)).toNat = 0b1110 * 2 ^ 12 + low.toNat * 2 + 1 := encodeWord_toNat rfl rfl
  generalize encodeWord _ = w at hw
  rw [decodeWord_jump (by omega), decodeJump, if_pos (spareReserved_of_odd (by omega)),
    bits_eq w 1 11 low (by omega)]

/-- Jump type 111 with spare bit 0 (R209). -/
theorem decodeWord_jrlType {w : Word} (htype : w.toNat / 2 ^ 9 = 0b1110111) (hspare : w.toNat % 2 = 0) :
    decodeWord w = decodeJrl w := by
  rw [decodeWord_jump (by omega), decodeJump, spareReserved_of_even hspare,
    bits_eq w 9 3 0b111 (by simp; omega)]
  rfl

theorem decodeWord_encodeWord_jrl (rs : Reg) : decodeWord (encodeWord (.jrl rs)) = .jrl rs := by
  have hw : (encodeWord (.jrl rs)).toNat = 0b11101110000 * 2 ^ 5 + rs.toNat * 2 := encodeWord_toNat rfl rfl
  generalize encodeWord _ = w at hw
  rw [decodeWord_jrlType (by omega) (by omega), decodeJrl, bit_false (k := 8) (by omega),
    bit_false (k := 7) (by omega), bit_false (k := 6) (by omega), bit_false (k := 5) (by omega),
    bits_eq w 1 4 rs (by omega)]
  rfl

theorem decodeWord_encodeWord_reservedJrl7 (low : BitVec 7) :
    decodeWord (encodeWord (.reservedJrl7 low)) = .reservedJrl7 low := by
  have hw : (encodeWord (.reservedJrl7 low)).toNat = 0b11101111 * 2 ^ 8 + low.toNat * 2 := encodeWord_toNat rfl rfl
  generalize encodeWord _ = w at hw
  rw [decodeWord_jrlType (by omega) (by omega), decodeJrl, bit_true (k := 8) (by omega),
    bits_eq w 1 7 low (by omega)]
  rfl

theorem decodeWord_encodeWord_reservedJrl6 (low : BitVec 6) :
    decodeWord (encodeWord (.reservedJrl6 low)) = .reservedJrl6 low := by
  have hw : (encodeWord (.reservedJrl6 low)).toNat = 0b111011101 * 2 ^ 7 + low.toNat * 2 := encodeWord_toNat rfl rfl
  generalize encodeWord _ = w at hw
  rw [decodeWord_jrlType (by omega) (by omega), decodeJrl, bit_false (k := 8) (by omega), bit_true (k := 7) (by omega),
    bits_eq w 1 6 low (by omega)]
  rfl

theorem decodeWord_encodeWord_reservedJrl5 (low : BitVec 5) :
    decodeWord (encodeWord (.reservedJrl5 low)) = .reservedJrl5 low := by
  have hw : (encodeWord (.reservedJrl5 low)).toNat = 0b1110111001 * 2 ^ 6 + low.toNat * 2 := encodeWord_toNat rfl rfl
  generalize encodeWord _ = w at hw
  rw [decodeWord_jrlType (by omega) (by omega), decodeJrl, bit_false (k := 8) (by omega),
    bit_false (k := 7) (by omega), bit_true (k := 6) (by omega), bits_eq w 1 5 low (by omega)]
  rfl

theorem decodeWord_encodeWord_reservedJrl4 (low : BitVec 4) :
    decodeWord (encodeWord (.reservedJrl4 low)) = .reservedJrl4 low := by
  have hw : (encodeWord (.reservedJrl4 low)).toNat = 0b11101110001 * 2 ^ 5 + low.toNat * 2 := encodeWord_toNat rfl rfl
  generalize encodeWord _ = w at hw
  rw [decodeWord_jrlType (by omega) (by omega), decodeJrl, bit_false (k := 8) (by omega),
    bit_false (k := 7) (by omega), bit_false (k := 6) (by omega), bit_true (k := 5) (by omega),
    bits_eq w 1 4 low (by omega)]
  rfl

/-! ### The formats with one row, and those whose rows differ in an op field -/

theorem decodeWord_encodeWord_ldi (imm : BitVec 15) : decodeWord (encodeWord (.ldi imm)) = .ldi imm := by
  have hw : (encodeWord (.ldi imm)).toNat = imm.toNat := encodeWord_toNat rfl rfl
  rw [decodeWord_ldi (by omega), bits_eq _ 0 15 imm (by omega)]

theorem decodeWord_encodeWord_lsi (rd : Reg) (imm : BitVec 7) :
    decodeWord (encodeWord (.lsi rd imm)) = .lsi rd imm := by
  have hw : (encodeWord (.lsi rd imm)).toNat = 0b11110 * 2 ^ 11 + rd.toNat * 2 ^ 7 + imm.toNat :=
    encodeWord_toNat rfl rfl
  rw [decodeWord_lsi (by omega), bits_eq _ 7 4 rd (by omega), bits_eq _ 0 7 imm (by omega)]

theorem decodeWord_encodeWord_mov (rd rs : Reg) (imm : BitVec 2) :
    decodeWord (encodeWord (.mov rd rs imm)) = .mov rd rs imm := by
  have hw : (encodeWord (.mov rd rs imm)).toNat = 0b111110 * 2 ^ 10 + rd.toNat * 2 ^ 6 + rs.toNat * 2 ^ 2 + imm.toNat :=
    encodeWord_toNat rfl rfl
  rw [decodeWord_mov (by omega), bits_eq _ 6 4 rd (by omega), bits_eq _ 2 4 rs (by omega),
    bits_eq _ 0 2 imm (by omega)]

theorem decodeWord_encodeWord_ljmp (rs : Reg) : decodeWord (encodeWord (.ljmp rs)) = .ljmp rs := by
  have hw : (encodeWord (.ljmp rs)).toNat = 0b111111111110 * 2 ^ 4 + rs.toNat := encodeWord_toNat rfl rfl
  rw [decodeWord_ljmp (by omega), bits_eq _ 0 4 rs (by omega)]

theorem decodeWord_encodeWord_reservedOpcode (low : BitVec 8) :
    decodeWord (encodeWord (.reservedOpcode low)) = .reservedOpcode low := by
  have hw : (encodeWord (.reservedOpcode low)).toNat = 0b11111110 * 2 ^ 8 + low.toNat := encodeWord_toNat rfl rfl
  rw [decodeWord_opcode (by omega), bits_eq _ 0 8 low (by omega)]

theorem decodeWord_encodeWord_reservedOnes (low : BitVec 3) :
    decodeWord (encodeWord (.reservedOnes low)) = .reservedOnes low := by
  have hw : (encodeWord (.reservedOnes low)).toNat = 0b1111111111111 * 2 ^ 3 + low.toNat := encodeWord_toNat rfl rfl
  rw [decodeWord_ones (by omega), bits_eq _ 0 3 low (by omega)]

/-- SET and CLR, apart by bit 8. -/
theorem decodeWord_packMask (d : BitVec 1) (mask : BitVec 8) :
    decodeWord (pack [⟨7, 0b1111110⟩, ⟨1, d⟩, ⟨8, mask⟩]) = if d.getLsbD 0 then .set mask else .clr mask := by
  have hw := pack_toNat_of_totalWidth (l := [⟨7, 0b1111110⟩, ⟨1, d⟩, ⟨8, mask⟩]) rfl
  generalize pack _ = w at hw
  simp only [packNat, BitVec.ofNat_eq_ofNat, BitVec.toNat_ofNat] at hw
  rw [decodeWord_mask (by omega), bit_eq_field (k := 8) (d := d) (by omega), bits_eq w 0 8 mask (by omega)]

/-- MVS, apart by D in bit 6. -/
theorem decodeWord_packMvs (d : BitVec 1) (rd : Reg) (seg : Seg) :
    decodeWord (pack [⟨9, 0b111111110⟩, ⟨1, d⟩, ⟨4, rd⟩, ⟨2, seg.code⟩]) =
      if d.getLsbD 0 then .mvsToSeg rd seg else .mvsFromSeg rd seg := by
  have hw := pack_toNat_of_totalWidth (l := [⟨9, 0b111111110⟩, ⟨1, d⟩, ⟨4, rd⟩, ⟨2, seg.code⟩]) rfl
  generalize pack _ = w at hw
  simp only [packNat, BitVec.ofNat_eq_ofNat, BitVec.toNat_ofNat] at hw
  rw [decodeWord_mvs (by omega), decodeMvs, bit_eq_field (k := 6) (d := d) (by omega), bits_eq w 2 4 rd (by omega),
    bits_eq w 0 2 seg.code (by omega), Seg.ofCode_code]

/-- SWB and INV, apart by bit 4. -/
theorem decodeWord_packBytes (d : BitVec 1) (rx : Reg) :
    decodeWord (pack [⟨11, 0b11111111110⟩, ⟨1, d⟩, ⟨4, rx⟩]) = if d.getLsbD 0 then .inv rx else .swb rx := by
  have hw := pack_toNat_of_totalWidth (l := [⟨11, 0b11111111110⟩, ⟨1, d⟩, ⟨4, rx⟩]) rfl
  generalize pack _ = w at hw
  simp only [packNat, BitVec.ofNat_eq_ofNat, BitVec.toNat_ofNat] at hw
  rw [decodeWord_bytes (by omega), bit_eq_field (k := 4) (d := d) (by omega), bits_eq w 0 4 rx (by omega)]

/-- SMV, apart by SRC (R113). -/
theorem decodeWord_packSmv (src : BitVec 2) (dst : Reg) :
    decodeWord (pack [⟨10, 0b1111111110⟩, ⟨2, src⟩, ⟨4, dst⟩]) =
      if src = 0 then .smvInactivePc dst else if src = 1 then .smvShadowPsw dst
      else if src = 2 then .smvNormalPsw dst else .reservedSmv dst := by
  have hw := pack_toNat_of_totalWidth (l := [⟨10, 0b1111111110⟩, ⟨2, src⟩, ⟨4, dst⟩]) rfl
  generalize pack _ = w at hw
  simp only [packNat, BitVec.ofNat_eq_ofNat, BitVec.toNat_ofNat] at hw
  rw [decodeWord_smv (by omega), decodeSmv, bits_eq w 4 2 src (by omega), bits_eq w 0 4 dst (by omega)]
  clear hw
  revert src dst
  decide

theorem decodeWord_encodeWord_reservedSys (low : BitVec 2) :
    decodeWord (encodeWord (.reservedSys low)) = .reservedSys low := by
  revert low; decide

/-! ### Every row -/

/-- R102, R105: the decoder reads back what the encoder wrote, row by row of the opcode table. -/
theorem decodeWord_encodeWord {i : Instr} (hwf : i.wellFormed = true) : decodeWord (encodeWord i) = i := by
  cases i with
  | ldi imm => exact decodeWord_encodeWord_ldi imm
  | ld seg rd base offset => exact decodeWord_encodeLoadStore 0 seg rd base offset
  | st seg rd base offset => exact decodeWord_encodeLoadStore 1 seg rd base offset
  | add rd w b | sub rd w b | and rd w b | or rd w b | xor rd w b =>
    simp [encodeWord_eq, encodeLayout, decodeAlu, decodeWord_encodeAlu, -BitVec.getLsbD_eq_getElem]
  | mul rd w b | div rd w b | reservedMulOdd rd w b | reservedDivOdd rd w b =>
    simpa [encodeWord_eq, encodeLayout, decodeAlu, decodeWord_encodeAlu, Instr.wellFormed, -BitVec.getLsbD_eq_getElem]
      using hwf
  | sl rd count | sr rd count | sra rd count | ror rd count | slc rd count | src rd count | sac rd count
  | roc rd count =>
    simp [encodeWord_eq, encodeLayout, decodeShift, decodeWord_encodeShift]
  | jmp target | jz target | jnz target | jc target | jnc target | jn target | jnn target =>
    simp [encodeWord_eq, encodeLayout, decodeJump, decodeWord_encodeJump]
  | jrl rs => exact decodeWord_encodeWord_jrl rs
  | lsi rd imm => exact decodeWord_encodeWord_lsi rd imm
  | mov rd rs imm => exact decodeWord_encodeWord_mov rd rs imm
  | clr mask => exact decodeWord_packMask 0 mask
  | set mask => exact decodeWord_packMask 1 mask
  | mvsFromSeg rd seg => exact decodeWord_packMvs 0 rd seg
  | mvsToSeg rd seg => exact decodeWord_packMvs 1 rd seg
  | smvInactivePc dst => exact decodeWord_packSmv 0 dst
  | smvShadowPsw dst => exact decodeWord_packSmv 1 dst
  | smvNormalPsw dst => exact decodeWord_packSmv 2 dst
  | reservedSmv dst => exact decodeWord_packSmv 3 dst
  | swb rx => exact decodeWord_packBytes 0 rx
  | inv rx => exact decodeWord_packBytes 1 rx
  | ljmp rs => exact decodeWord_encodeWord_ljmp rs
  | nop | hlt | swi | reti => decide
  | reservedLdSt low => exact decodeWord_encodeWord_reservedLdSt low
  | reservedJump low => exact decodeWord_encodeWord_reservedJump low
  | reservedJrl7 low => exact decodeWord_encodeWord_reservedJrl7 low
  | reservedJrl6 low => exact decodeWord_encodeWord_reservedJrl6 low
  | reservedJrl5 low => exact decodeWord_encodeWord_reservedJrl5 low
  | reservedJrl4 low => exact decodeWord_encodeWord_reservedJrl4 low
  | reservedOpcode low => exact decodeWord_encodeWord_reservedOpcode low
  | reservedSys low => exact decodeWord_encodeWord_reservedSys low
  | reservedOnes low => exact decodeWord_encodeWord_reservedOnes low

/-- Settles O2: the bytes are the word's, and the word decodes to the instruction. -/
theorem decodeEncodeAgree : Obligations.DecodeEncodeAgree := by
  intro i rest hwf
  rw [encode, decode_toBytes, decodeWord_encodeWord hwf]

end Sys2Proof
end

section
/-! SUPPORT. Every word is the word of what it decodes to (30_encoding.md R100, R105): in each opcode group, the fields the decoder takes out make the word again. -/

namespace Sys2Proof

/-- The instruction is well-formed and `w` is its word. -/
def EncodedBy (w : Word) (i : Instr) : Prop :=
  i.wellFormed = true ∧ encodeWord i = w

section
variable {w : Word}

theorem bit_eq_true_iff {k : Nat} : w.getLsbD k = true ↔ w.toNat / 2 ^ k % 2 = 1 := by
  rw [bit_eq, decide_eq_true_iff]

theorem bit_ne_true_iff {k : Nat} : ¬ w.getLsbD k = true ↔ w.toNat / 2 ^ k % 2 = 0 := by
  rw [bit_eq_true_iff, Nat.mod_two_not_eq_one]

theorem EncodedBy.of_pack {i : Instr} {l : List Field} (hwf : i.wellFormed = true) (hi : encodeLayout i = pack l)
    (hl : totalWidth l = 16) (h : packNat l 0 = w.toNat) : EncodedBy w i :=
  ⟨hwf, BitVec.eq_of_toNat_eq (encodeWord_toNat hi hl h)⟩

/-! ### LD and ST -/

theorem encodeLoadStore_of_fields {store : BitVec 1} (htop : w.toNat / 2 ^ 13 = 0b100 + store.toNat)
    (hspare : w.toNat % 2 = 0) :
    encodeLoadStore store (Seg.ofCode (bits w 11 2)) (bits w 7 4) (bits w 3 4) (bits w 1 2) = w := by
  apply BitVec.eq_of_toNat_eq
  rw [encodeLoadStore_toNat, Seg.code_ofCode, bits_toNat, bits_toNat, bits_toNat, bits_toNat]
  omega

theorem decodeLoadStore_encodedBy (h : w.toNat / 2 ^ 14 = 0b10) : EncodedBy w (decodeLoadStore w) := by
  rw [decodeLoadStore, spareReserved_eq]
  split_ifs with hspare hstore
  · rw [bit_eq_true_iff] at hspare
    refine .of_pack rfl rfl rfl ?_
    simp only [packNat, bits_toNat, BitVec.ofNat_eq_ofNat, BitVec.toNat_ofNat]
    omega
  · rw [bit_ne_true_iff] at hspare
    rw [bit_eq_true_iff] at hstore
    exact ⟨rfl, encodeLoadStore_of_fields (store := 1) (by simp; omega) (by omega)⟩
  · rw [bit_ne_true_iff] at hspare hstore
    exact ⟨rfl, encodeLoadStore_of_fields (store := 0) (by simp; omega) (by omega)⟩

/-! ### The ALU format and the shifts -/

theorem Operand.number_ofBits (w : Word) : (Operand.ofBits w).number = w.toNat % 2 ^ 5 := by
  rw [Operand.ofBits]
  split_ifs with hi
  · rw [bit_eq_true_iff] at hi
    simp only [Operand.number, bits_toNat]
    omega
  · rw [bit_ne_true_iff] at hi
    simp only [Operand.number, bits_toNat]
    omega

theorem encodeAlu_of_fields {op : BitVec 3} (htop : w.toNat / 2 ^ 13 = 0b110) (hop : (bits w 10 3).toNat = op.toNat) :
    encodeAlu op (bits w 6 4) (w.getLsbD 5) (Operand.ofBits w) = w := by
  rw [bits_toNat] at hop
  apply BitVec.eq_of_toNat_eq
  rw [encodeAlu_toNat, Operand.number_ofBits, bits_toNat, bit_toNat]
  omega

theorem encodeShift_of_fields {c : BitVec 1} {t : BitVec 2} (htop : w.toNat / 2 ^ 10 = 0b110111)
    (hct : (bits w 3 3).toNat = (c ++ t).toNat) : encodeShift c t (bits w 6 4) (bits w 0 3) = w := by
  rw [bits_toNat, toNat_append_eq] at hct
  apply BitVec.eq_of_toNat_eq
  rw [encodeShift_toNat, bits_toNat, bits_toNat]
  omega

theorem decodeShift_encodedBy (h : w.toNat / 2 ^ 10 = 0b110111) : EncodedBy w (decodeShift w) := by
  rw [decodeShift]
  split
  case h_1 hct => exact ⟨rfl, encodeShift_of_fields (c := 0) (t := 0) h hct⟩
  case h_2 hct => exact ⟨rfl, encodeShift_of_fields (c := 0) (t := 1) h hct⟩
  case h_3 hct => exact ⟨rfl, encodeShift_of_fields (c := 0) (t := 2) h hct⟩
  case h_4 hct => exact ⟨rfl, encodeShift_of_fields (c := 0) (t := 3) h hct⟩
  case h_5 hct => exact ⟨rfl, encodeShift_of_fields (c := 1) (t := 0) h hct⟩
  case h_6 hct => exact ⟨rfl, encodeShift_of_fields (c := 1) (t := 1) h hct⟩
  case h_7 hct => exact ⟨rfl, encodeShift_of_fields (c := 1) (t := 2) h hct⟩
  case h_8 =>
    simp only [imp_false] at *
    have hct : (bits w 3 3).toNat = 7 := by omega
    exact ⟨rfl, encodeShift_of_fields (c := 1) (t := 3) h hct⟩

theorem decodeAlu_encodedBy (h : w.toNat / 2 ^ 13 = 0b110) : EncodedBy w (decodeAlu w) := by
  rw [decodeAlu]
  split
  case h_1 hop => exact ⟨rfl, encodeAlu_of_fields (op := 0) h hop⟩
  case h_2 hop => exact ⟨rfl, encodeAlu_of_fields (op := 1) h hop⟩
  case h_3 hop => exact ⟨rfl, encodeAlu_of_fields (op := 2) h hop⟩
  case h_4 hop => exact ⟨rfl, encodeAlu_of_fields (op := 3) h hop⟩
  case h_5 hop => exact ⟨rfl, encodeAlu_of_fields (op := 4) h hop⟩
  case h_6 hop =>
    split_ifs with heven
    · exact ⟨heven, encodeAlu_of_fields (op := 5) h hop⟩
    · exact ⟨by simpa [Instr.wellFormed] using heven, encodeAlu_of_fields (op := 5) h hop⟩
  case h_7 hop =>
    split_ifs with heven
    · exact ⟨heven, encodeAlu_of_fields (op := 6) h hop⟩
    · exact ⟨by simpa [Instr.wellFormed] using heven, encodeAlu_of_fields (op := 6) h hop⟩
  case h_8 =>
    simp only [imp_false] at *
    have hop := bits_toNat w 10 3
    exact decodeShift_encodedBy (by omega)

/-! ### The jumps -/

theorem encodeJump_of_fields {type : BitVec 3} (htop : w.toNat / 2 ^ 12 = 0b1110)
    (htype : (bits w 9 3).toNat = type.toNat) (hspare : w.toNat % 2 = 0) : encodeJump type (bits w 1 8) = w := by
  rw [bits_toNat] at htype
  apply BitVec.eq_of_toNat_eq
  rw [encodeJump_toNat, bits_toNat]
  omega

theorem decodeJrl_encodedBy (h : w.toNat / 2 ^ 9 = 0b1110111) (hspare : w.toNat % 2 = 0) :
    EncodedBy w (decodeJrl w) := by
  rw [decodeJrl]
  split_ifs with h8 h7 h6 h5
  all_goals
    simp only [bit_eq_true_iff, Nat.mod_two_not_eq_one] at *
    refine .of_pack rfl rfl rfl ?_
    simp only [packNat, bits_toNat, BitVec.ofNat_eq_ofNat, BitVec.toNat_ofNat]
    omega

theorem decodeJump_encodedBy (h : w.toNat / 2 ^ 12 = 0b1110) : EncodedBy w (decodeJump w) := by
  rw [decodeJump, spareReserved_eq]
  split_ifs with hspare
  · rw [bit_eq_true_iff] at hspare
    refine .of_pack rfl rfl rfl ?_
    simp only [packNat, bits_toNat, BitVec.ofNat_eq_ofNat, BitVec.toNat_ofNat]
    omega
  · replace hspare : w.toNat % 2 = 0 := by rw [bit_ne_true_iff] at hspare; omega
    split
    case h_1 htype => exact ⟨rfl, encodeJump_of_fields (type := 0) h htype hspare⟩
    case h_2 htype => exact ⟨rfl, encodeJump_of_fields (type := 1) h htype hspare⟩
    case h_3 htype => exact ⟨rfl, encodeJump_of_fields (type := 2) h htype hspare⟩
    case h_4 htype => exact ⟨rfl, encodeJump_of_fields (type := 3) h htype hspare⟩
    case h_5 htype => exact ⟨rfl, encodeJump_of_fields (type := 4) h htype hspare⟩
    case h_6 htype => exact ⟨rfl, encodeJump_of_fields (type := 5) h htype hspare⟩
    case h_7 htype => exact ⟨rfl, encodeJump_of_fields (type := 6) h htype hspare⟩
    case h_8 =>
      simp only [imp_false] at *
      have htype := bits_toNat w 9 3
      exact decodeJrl_encodedBy (by omega) hspare

/-! ### The formats with one row, and those whose rows differ in an op field -/

theorem decodeMvs_encodedBy (h : w.toNat / 2 ^ 7 = 0b111111110) : EncodedBy w (decodeMvs w) := by
  rw [decodeMvs]
  split_ifs with hd
  all_goals
    simp only [bit_eq_true_iff, Nat.mod_two_not_eq_one] at hd
    refine .of_pack rfl rfl rfl ?_
    simp only [packNat, Seg.code_ofCode, bits_toNat, BitVec.ofNat_eq_ofNat, BitVec.toNat_ofNat]
    omega

theorem decodeSmv_encodedBy (h : w.toNat / 2 ^ 6 = 0b1111111110) : EncodedBy w (decodeSmv w) := by
  rw [decodeSmv]
  split
  all_goals
    refine .of_pack rfl rfl rfl ?_
    simp only [imp_false, packNat, bits_toNat, BitVec.ofNat_eq_ofNat, BitVec.toNat_ofNat] at *
    omega

theorem decodeSys_encodedBy (h : w.toNat / 2 ^ 3 = 0b1111111111110) : EncodedBy w (decodeSys w) := by
  rw [decodeSys]
  split
  all_goals
    refine .of_pack rfl rfl rfl ?_
    simp only [imp_false, packNat, bits_toNat, BitVec.ofNat_eq_ofNat, BitVec.toNat_ofNat] at *
    omega

end

/-- R100, R105: every word is the word of the instruction it decodes to. -/
theorem decodeWord_encodedBy (w : Word) : EncodedBy w (decodeWord w) := by
  apply decodeWord_cases w
  case loadStore => exact decodeLoadStore_encodedBy
  case alu => exact decodeAlu_encodedBy
  case jump => exact decodeJump_encodedBy
  case mvs => exact decodeMvs_encodedBy
  case smv => exact decodeSmv_encodedBy
  case sys => exact decodeSys_encodedBy
  case mask | bytes =>
    intro h
    split_ifs with hd
    all_goals
      simp only [bit_eq_true_iff, Nat.mod_two_not_eq_one] at hd
      refine .of_pack rfl rfl rfl ?_
      simp only [packNat, bits_toNat, BitVec.ofNat_eq_ofNat, BitVec.toNat_ofNat]
      omega
  case ldi | lsi | mov | opcode | ljmp | ones =>
    intro h
    refine .of_pack rfl rfl rfl ?_
    simp only [packNat, bits_toNat, BitVec.ofNat_eq_ofNat, BitVec.toNat_ofNat]
    omega

/-- Settles O3: group by group, the fields taken out of the word make it again. -/
theorem encodeDecodeAgree : Obligations.EncodeDecodeAgree :=
  decodeWord_encodedBy

end Sys2Proof
end

section
/-! SUPPORT. Which words are reserved, and what the shift and system codes of R110 and R112 are (30_encoding.md R110 to R114; 42_alu.md R172). -/

namespace Sys2Proof

/-! ### The reserved words of each opcode group -/

section
variable {w : Word}

theorem bits_ne_zero_iff {lo len : Nat} : bits w lo len ≠ 0 ↔ w.toNat / 2 ^ lo % 2 ^ len ≠ 0 := by
  rw [← bits_toNat, ne_eq, ← BitVec.toNat_inj, BitVec.ofNat_eq_ofNat, BitVec.toNat_ofNat, Nat.zero_mod]

theorem isEven_bits_iff {k : Nat} : Reg.isEven (bits w k 4) = true ↔ w.toNat / 2 ^ k % 2 = 0 := by
  rw [Reg.isEven_eq_true, bits_toNat]
  omega

theorem decodeLoadStore_isReserved : (decodeLoadStore w).isReserved = true ↔ w.toNat % 2 = 1 := by
  rw [decodeLoadStore, spareReserved_eq]
  split_ifs
  all_goals
    simp only [bit_eq_true_iff, Instr.isReserved, Bool.false_eq_true, true_iff, false_iff] at *
    omega

theorem decodeShift_isReserved : (decodeShift w).isReserved = false := by
  rw [decodeShift]
  split <;> rfl

/-- Of the ALU format only MUL and DIV, ops 5 and 6, are reserved, and with bit 6 of the word set (R172). -/
theorem decodeAlu_isReserved :
    (decodeAlu w).isReserved = true ↔
      (w.toNat / 2 ^ 10 % 2 ^ 3 = 5 ∨ w.toNat / 2 ^ 10 % 2 ^ 3 = 6) ∧ w.toNat / 2 ^ 6 % 2 = 1 := by
  rw [decodeAlu]
  split
  case h_6 | h_7 =>
    split_ifs
    all_goals
      simp only [isEven_bits_iff, bits_toNat, Instr.isReserved, Bool.false_eq_true, true_iff, false_iff] at *
      omega
  case h_8 =>
    simp only [imp_false, bits_toNat, decodeShift_isReserved, Bool.false_eq_true, false_iff] at *
    omega
  all_goals
    simp only [bits_toNat, Instr.isReserved, Bool.false_eq_true, false_iff] at *
    omega

/-- JRL is reserved where target8[7:4], bits 8:5 of the word, is not 0 (R209). -/
theorem decodeJrl_isReserved : (decodeJrl w).isReserved = true ↔ w.toNat / 2 ^ 5 % 2 ^ 4 ≠ 0 := by
  rw [decodeJrl]
  split_ifs
  all_goals
    simp only [bit_eq_true_iff, Instr.isReserved, Bool.false_eq_true, true_iff, false_iff] at *
    omega

theorem decodeJump_isReserved :
    (decodeJump w).isReserved = true ↔
      w.toNat % 2 = 1 ∨ w.toNat / 2 ^ 9 % 2 ^ 3 = 7 ∧ w.toNat / 2 ^ 5 % 2 ^ 4 ≠ 0 := by
  rw [decodeJump, spareReserved_eq]
  split_ifs with hspare
  · simp only [bit_eq_true_iff, Instr.isReserved, true_iff] at *
    omega
  · split
    case h_8 =>
      simp only [imp_false, bit_eq_true_iff, bits_toNat, decodeJrl_isReserved] at *
      omega
    all_goals
      simp only [bit_eq_true_iff, bits_toNat, Instr.isReserved, Bool.false_eq_true, false_iff] at *
      omega

theorem decodeMvs_isReserved : (decodeMvs w).isReserved = false := by
  rw [decodeMvs]
  split_ifs <;> rfl

theorem decodeSmv_isReserved : (decodeSmv w).isReserved = true ↔ w.toNat / 2 ^ 4 % 2 ^ 2 = 3 := by
  rw [decodeSmv]
  split
  all_goals
    simp only [imp_false, bits_toNat, Instr.isReserved, Bool.false_eq_true, true_iff, false_iff] at *
    omega

theorem decodeSys_isReserved : (decodeSys w).isReserved = true ↔ 4 ≤ w.toNat % 2 ^ 3 := by
  rw [decodeSys]
  split
  all_goals
    simp only [imp_false, bits_toNat, Instr.isReserved, Bool.false_eq_true, true_iff, false_iff] at *
    omega

end

/-- Settles O5: the reserved words of each opcode group, as the number the group's top bits leave free. -/
theorem reservedWordsAreThoseOfTheTable : Obligations.ReservedWordsAreThoseOfTheTable := by
  intro w
  rw [show w.extractLsb' 5 4 = bits w 5 4 from rfl, bits_ne_zero_iff, bit_eq_true_iff, bit_eq_true_iff]
  refine decodeWord_cases (P := fun i => i.isReserved = true ↔ _) w ?ldi ?loadStore ?alu ?jump ?lsi ?mov ?mask ?opcode
    ?mvs ?smv ?bytes ?ljmp ?sys ?ones <;> intro h
  case loadStore => rw [decodeLoadStore_isReserved]; omega
  case alu => rw [decodeAlu_isReserved]; omega
  case jump => rw [decodeJump_isReserved]; omega
  case mvs => simp only [decodeMvs_isReserved, Bool.false_eq_true, false_iff]; omega
  case smv => rw [decodeSmv_isReserved]; omega
  case sys => rw [decodeSys_isReserved]; omega
  case mask | bytes => split_ifs <;> simp only [Instr.isReserved, Bool.false_eq_true, false_iff] <;> omega
  case ldi | lsi | mov | opcode | ljmp | ones =>
    simp only [Instr.isReserved, Bool.false_eq_true, true_iff, false_iff]
    omega

/-! ### The shift and system codes -/

theorem shiftWord_eq (rd : Reg) (c : BitVec 1) (t : BitVec 2) (count : BitVec 3) :
    0b110111#6 ++ rd ++ c ++ t ++ count = encodeShift c t rd count := by
  apply BitVec.eq_of_toNat_eq
  rw [encodeShift_toNat]
  simp only [toNat_append_eq, BitVec.toNat_ofNat]
  omega

/-- Settles O4: each shift word is that of its row, and the eight values of the SYS op field are evaluated. -/
theorem shiftAndSystemCodesDecode : Obligations.ShiftAndSystemCodesDecode := by
  refine ⟨fun rd count => ?_, by decide, by decide, by decide, by decide, by decide⟩
  simp only [shiftWord_eq]
  exact ⟨decodeWord_encodeWord (i := .sl rd count) rfl, decodeWord_encodeWord (i := .slc rd count) rfl,
    decodeWord_encodeWord (i := .sr rd count) rfl, decodeWord_encodeWord (i := .src rd count) rfl,
    decodeWord_encodeWord (i := .sra rd count) rfl, decodeWord_encodeWord (i := .sac rd count) rfl,
    decodeWord_encodeWord (i := .ror rd count) rfl, decodeWord_encodeWord (i := .roc rd count) rfl⟩

/-- Settles O1: sixteen closed words, decoded by evaluation. -/
theorem sampleWordsDecode : Obligations.SampleWordsDecode := by
  unfold Obligations.SampleWordsDecode
  decide

end Sys2Proof
end

section
/-! SUPPORT. What an instruction stops for: the reserved rows, then the whole `raise` table (R262; 30_encoding.md R114; 42_alu.md R172, R174; 20_memory.md R86; 70_reset_and_hazards.md R302). -/

namespace Sys2Proof.Machine

/-! ### The reserved rows -/

/-- A reserved row other than an odd MUL or DIV stops with its word (R114, D26). -/
theorem exec_reserved {i : Instr} (s : State) (hres : i.isReserved = true)
    (hpair : ∀ rd b o, i ≠ .reservedMulOdd rd b o ∧ i ≠ .reservedDivOdd rd b o) :
    exec i s = .fault (.reserved (encodeWord i)) := by
  cases i with
  | reservedMulOdd rd w b => exact absurd rfl (hpair rd w b).1
  | reservedDivOdd rd w b => exact absurd rfl (hpair rd w b).2
  | reservedLdSt | reservedJump | reservedJrl7 | reservedJrl6 | reservedJrl5 | reservedJrl4 | reservedOpcode
  | reservedSmv | reservedSys | reservedOnes => rfl
  | _ => cases hres

theorem exec_reservedMulOdd (rd : Reg) (w : Bool) (b : Operand) (s : State) :
    exec (.reservedMulOdd rd w b) s = .fault (.oddPair rd) := rfl

theorem exec_reservedDivOdd (rd : Reg) (w : Bool) (b : Operand) (s : State) :
    exec (.reservedDivOdd rd w b) s = .fault (.oddPair rd) := rfl

theorem exec_reserved_of_word {i : Instr} {w : Word} (hw : encodeLayout i = w) (s : State) (hres : i.isReserved = true)
    (hpair : ∀ rd b o, i ≠ .reservedMulOdd rd b o ∧ i ≠ .reservedDivOdd rd b o) :
    exec i s = .fault (.reserved w) := by
  rw [exec_reserved s hres hpair, encodeWord_eq, hw]

/-- Settles O60: each row's word, with the row's fixed bits joined. -/
theorem reservedRowsStop : Obligations.ReservedRowsStop := by
  intro s
  refine ⟨fun low => exec_reserved_of_word ?ldSt s rfl ?_, fun rd w b => exec_reservedMulOdd rd w b s,
    fun rd w b => exec_reservedDivOdd rd w b s, fun low => exec_reserved_of_word ?jump s rfl ?_,
    fun low => exec_reserved_of_word ?jrl7 s rfl ?_, fun low => exec_reserved_of_word ?jrl6 s rfl ?_,
    fun low => exec_reserved_of_word ?jrl5 s rfl ?_, fun low => exec_reserved_of_word ?jrl4 s rfl ?_,
    fun low => exec_reserved_of_word ?opcode s rfl ?_, fun dst => exec_reserved_of_word ?smv s rfl ?_,
    fun low => exec_reserved_of_word ?sys s rfl ?_, fun low => exec_reserved_of_word ?ones s rfl ?_⟩
  case opcode | ones => exact pack_two rfl ..
  case ldSt | jump | jrl7 | jrl6 | jrl5 | jrl4 | smv | sys => exact pack_three rfl ..
  all_goals exact fun _ _ _ => ⟨nofun, nofun⟩

/-! ### The `raise` table -/

/-- A result that goes on, or stops for one of the causes of R262; never refused. -/
def GoesOnOrHasCause (i : Instr) (s : State) : Result State → Prop
  | .next _ => True
  | .fault f => FaultCause i s f
  | .refused _ => False

theorem GoesOnOrHasCause.load {i : Instr} {s : State} {pa : PhysAddr} {k : Word → Result State}
    (hnone : s.mem.readWord pa = none → FaultCause i s (.unspecified pa))
    (hsome : ∀ v, s.mem.readWord pa = some v → GoesOnOrHasCause i s (k v)) : GoesOnOrHasCause i s (s.load pa k) := by
  cases h : s.mem.readWord pa with
  | none => rw [State.load_none h]; exact hnone h
  | some v => rw [State.load_some h]; exact hsome v h

theorem GoesOnOrHasCause.jumpIf (i : Instr) (s : State) (taken : Bool) (target : BitVec 8) :
    GoesOnOrHasCause i s (s.jumpIf taken target) := by
  obtain ⟨t, ht, -⟩ := s.jumpIf_spec taken target
  rw [ht]
  trivial

theorem GoesOnOrHasCause.fault {i : Instr} {s : State} {r : Result State} {f : Fault} (hr : r = .fault f)
    (h : FaultCause i s f) : GoesOnOrHasCause i s r :=
  hr ▸ h

theorem GoesOnOrHasCause.reserved {i : Instr} {s : State} (hres : i.isReserved = true)
    (hpair : ∀ rd b o, i ≠ .reservedMulOdd rd b o ∧ i ≠ .reservedDivOdd rd b o) : GoesOnOrHasCause i s (exec i s) :=
  .fault (exec_reserved s hres hpair) ⟨hres, hpair, rfl⟩

/-- Every well-formed instruction goes on, or stops for a cause of the table. -/
theorem exec_goesOnOrHasCause {i : Instr} (hwf : i.wellFormed = true) (s : State) :
    GoesOnOrHasCause i s (exec i s) := by
  cases i with
  | ld seg rd base offset =>
    rw [exec_ld]
    exact .load (fun h => ⟨h, .inl ⟨seg, rd, base, offset, rfl, rfl⟩⟩) fun _ _ => trivial
  | st seg rd base offset =>
    cases h : s.storeHazard (s.dataAddr seg base offset) with
    | true => exact .fault (exec_st_hazard h) ⟨seg, rd, base, offset, rfl, rfl, (s.storeHazard_iff _).mp h⟩
    | false => rw [exec_st_safe h]; trivial
  | mul rd w b => rw [exec_mul_even hwf]; trivial
  | div rd w b =>
    rw [exec_div_even hwf]
    split_ifs with h
    · exact ⟨rd, w, b, rfl, h⟩
    · trivial
  | ljmp rs =>
    rw [exec_ljmp]
    refine .load (fun h => ⟨h, .inr ⟨rs, .inl ⟨rfl, .inl rfl⟩⟩⟩) fun v hv => ?_
    exact .load (fun h => ⟨h, .inr ⟨rs, .inl ⟨rfl, .inr ⟨rfl, by simp [hv]⟩⟩⟩⟩) fun _ _ => trivial
  | swi =>
    cases h : s.mem.readWord 1 with
    | none => exact .fault (enterTrap_of_undefined (by simpa using h)) ⟨h, .inr ⟨0, .inr ⟨rfl, rfl⟩⟩⟩
    | some target => rw [exec_swi_of_vector s h]; trivial
  | jmp | jz | jnz | jc | jnc | jn | jnn =>
    dsimp only [exec]
    exact .jumpIf ..
  | reservedMulOdd rd w b => exact .fault (exec_reservedMulOdd rd w b s) ⟨w, b, .inl rfl⟩
  | reservedDivOdd rd w b => exact .fault (exec_reservedDivOdd rd w b s) ⟨w, b, .inr rfl⟩
  | reservedLdSt | reservedJump | reservedJrl7 | reservedJrl6 | reservedJrl5 | reservedJrl4 | reservedOpcode
  | reservedSmv | reservedSys | reservedOnes => exact .reserved rfl fun _ _ _ => ⟨nofun, nofun⟩
  | _ => trivial

/-- Where a cause of the table is present, the instruction stops with its name. -/
theorem exec_of_faultCause {i : Instr} {s : State} {f : Fault} (hwf : i.wellFormed = true) (h : FaultCause i s f) :
    exec i s = .fault f := by
  cases f with
  | reserved w =>
    obtain ⟨hres, hpair, rfl⟩ := h
    exact exec_reserved s hres hpair
  | oddPair rd =>
    obtain ⟨w, b, rfl | rfl⟩ := h
    · exact exec_reservedMulOdd rd w b s
    · exact exec_reservedDivOdd rd w b s
  | divideByZero =>
    obtain ⟨rd, w, b, rfl, hb⟩ := h
    rw [exec_div_even hwf, if_pos hb]
  | fetchHazard pa =>
    obtain ⟨seg, rd, base, offset, rfl, rfl, hpa⟩ := h
    exact exec_st_hazard ((s.storeHazard_iff _).mpr hpa)
  | unspecified pa =>
    obtain ⟨hnone, ⟨seg, rd, base, offset, rfl, rfl⟩ | ⟨rs, ⟨rfl, hpa⟩ | ⟨rfl, rfl⟩⟩⟩ := h
    · rw [exec_ld, State.load_none hnone]
    · rcases hpa with rfl | ⟨rfl, hsome⟩
      · rw [exec_ljmp, State.load_none hnone]
      · obtain ⟨v, hv⟩ := Option.isSome_iff_exists.mp hsome
        rw [exec_ljmp, State.load_some hv, State.load_none hnone]
    · exact enterTrap_of_undefined (by simpa using hnone)
  | eaWrap | paWrap | pcWrap | nestedTrap | viewSwitch | codeSegmentMove => exact h.elim

theorem exec_fault_iff {i : Instr} {s : State} {f : Fault} (hwf : i.wellFormed = true) :
    exec i s = .fault f ↔ FaultCause i s f := by
  refine ⟨fun h => ?_, exec_of_faultCause hwf⟩
  have hcause := exec_goesOnOrHasCause hwf s
  rwa [h] at hcause

theorem exec_ne_refused {i : Instr} (hwf : i.wellFormed = true) (s : State) (r : Refusal) : exec i s ≠ .refused r := by
  intro h
  have hcause := exec_goesOnOrHasCause hwf s
  rwa [h] at hcause

theorem enterTrap_ne_refused (k : Nat) (s : State) (r : Refusal) : enterTrap k s ≠ .refused r := by
  rw [enterTrap_eq]
  split <;> nofun

theorem takeReset_ne_refused (s : State) (r : Refusal) : takeReset s ≠ .refused r := by
  rw [takeReset_eq]
  split <;> nofun

/-- What a step runs is decoded from a word, so it is well-formed, and only an instruction could be refused. -/
theorem step_ne_refused (s : State) (r : Refusal) : step s ≠ .refused r := by
  unfold step cycle
  split_ifs
  · exact takeReset_ne_refused _ r
  · nofun
  · exact enterTrap_ne_refused 2 _ r
  · rw [fetchAndRun_eq]
    split
    · next w _ =>
      obtain ⟨hwf, -⟩ := decodeWord_encodedBy w
      exact exec_ne_refused hwf _ r
    · nofun

/-- Settles O27: `exec` over its rows one way, the causes of the table the other. -/
theorem faultsAreExactlyTheRaiseTable : Obligations.FaultsAreExactlyTheRaiseTable :=
  ⟨fun _ _ _ => exec_fault_iff, step_ne_refused⟩

end Sys2Proof.Machine
end

section
/-! SUPPORT. LDI, LSI and MOV: the words of LSI and MOV, and what the three write (40_ldi_lsi_mov.md R140 to R142). -/

namespace Sys2Proof

/-- Four fields that fill a word, side by side (R101). -/
theorem pack_four {n m k j : Nat} (h : n + m + k + j = 16) (x : BitVec n) (y : BitVec m) (z : BitVec k) (u : BitVec j) :
    pack [⟨n, x⟩, ⟨m, y⟩, ⟨k, z⟩, ⟨j, u⟩] = (x ++ y ++ z ++ u).cast h := by
  apply BitVec.eq_of_toNat_eq
  rw [pack_toNat_of_totalWidth (by simpa [totalWidth, Nat.add_assoc] using h), BitVec.toNat_cast, toNat_append_eq,
    toNat_append_eq, toNat_append_eq]
  simp [packNat]

/-- A word given as the packed fields of a row decodes to that row's instruction (R102). -/
theorem decodeWord_of_encodeLayout {i : Instr} {w : Word} (hw : encodeLayout i = w) (hwf : i.wellFormed = true) :
    decodeWord w = i := by
  rw [← hw, ← encodeWord_eq, decodeWord_encodeWord hwf]

end Sys2Proof

namespace Sys2Proof.Machine

theorem exec_ldi (imm : BitVec 15) (s : State) : exec (.ldi imm) s = s.writeNext Reg.r0 (zext imm) := rfl

theorem exec_lsi (rd : Reg) (imm : BitVec 7) (s : State) : exec (.lsi rd imm) s = s.writeNext rd (sext imm) := rfl

theorem exec_mov (rd rs : Reg) (imm : BitVec 2) (s : State) :
    exec (.mov rd rs imm) s = s.writeNext rd (s.readReg rs + zext imm) := rfl

/-- The sum that MOV writes, as a number: a carry out of bit 15 is lost (R142). -/
theorem add_zext_toNat {n : Nat} (a : Word) (v : BitVec n) (h : n ≤ 16) :
    (a + zext v).toNat = (a.toNat + v.toNat) % 2 ^ 16 := by
  rw [BitVec.toNat_add, zext_toNat v h]

/-- Settles O29: the word is the row's, and the effect is that of writing Rd. -/
theorem lsiLoadsSignedImmediate : Obligations.LsiLoadsSignedImmediate := by
  intro rd imm s
  refine ⟨decodeWord_of_encodeLayout (pack_three rfl ..) rfl, ?_⟩
  rw [exec_lsi]
  exact s.writeNext_spec rd _

/-- Settles O30: the word is the row's, R15 reads as the program counter, and the sum written has the stated number. -/
theorem movAddsOffset : Obligations.MovAddsOffset := by
  intro rd rs imm s
  obtain ⟨t, ht, hwritten⟩ := s.writeNext_spec rd (s.readReg rs + zext imm)
  rw [← exec_mov] at ht
  have hword : decodeWord (0b111110#6 ++ rd ++ rs ++ imm) = .mov rd rs imm :=
    decodeWord_of_encodeLayout (pack_four rfl ..) rfl
  have hsum := add_zext_toNat (s.readReg rs) imm (by decide)
  exact ⟨hword, s.readReg_r15, t, _, ht, hsum, hwritten⟩

/-- Settles O28: LDI writes R0 with the immediate extended by zeros (D8). -/
theorem ldiLoadsImmediate : Obligations.LdiLoadsImmediate := by
  intro imm s
  rw [exec_ldi]
  exact s.writeNext_spec Reg.r0 _

end Sys2Proof.Machine
end

section
/-! SUPPORT. LD: the defined word and the undefined one (41_load_store.md R150, R151; 70_reset_and_hazards.md R302). -/

namespace Sys2Proof.Machine

/-- LD of a word that nothing defined stops, naming that word (R302, D33). -/
theorem exec_ld_undefined {s : State} {seg : Seg} {base : Reg} {offset : BitVec 2} (rd : Reg)
    (h : s.mem.readWord (s.dataAddr seg base offset) = none) :
    exec (.ld seg rd base offset) s = .fault (.unspecified (s.dataAddr seg base offset)) := by
  rw [exec_ld, State.load_none h]

/-- Settles O31: the address named is LD's own `dataAddr`, and its word is defined or not. -/
theorem loadReadsMemory : Obligations.LoadReadsMemory := by
  rintro seg rd base offset s pa rfl
  exact ⟨fun _ hdefined => exec_ld_defined rd hdefined, fun hundefined => exec_ld_undefined rd hundefined⟩

end Sys2Proof.Machine
end

section
/-! SUPPORT. ADD, SUB, AND, OR and XOR: what C and V say of the exact result, the flags of each instruction as its rule lists them, and the effect of the five (42_alu.md R160 to R166, R175). -/

namespace Sys2Proof.Machine

/-! ### C and V

V as the spec writes it is the library's signed overflow, C of ADD its unsigned overflow (G1). -/

theorem addCarry_eq_uaddOverflow (x y : Word) : addCarry x y = x.uaddOverflow y := by
  rw [BitVec.uaddOverflow_eq, BitVec.msb_eq_getLsbD_last]
  rfl

theorem addCarry_eq (x y : Word) : addCarry x y = decide (2 ^ 16 ≤ x.toNat + y.toNat) :=
  addCarry_eq_uaddOverflow x y

theorem addOverflow_eq_saddOverflow (x y : Word) : addOverflow x y = x.saddOverflow y := by
  simp only [BitVec.saddOverflow_eq, BitVec.msb_eq_getLsbD_last]
  rfl

theorem subOverflow_eq_ssubOverflow (x y : Word) : subOverflow x y = x.ssubOverflow y := by
  simp only [subOverflow, BitVec.ssubOverflow_eq, BitVec.msb_eq_getLsbD_last, Nat.add_one_sub_one]
  cases x.getLsbD 15 <;> cases y.getLsbD 15 <;> simp

/-- R175: V of ADD says that the exact signed sum does not fit 16 bits. -/
theorem addOverflow_iff (x y : Word) :
    addOverflow x y = true ↔ x.toInt + y.toInt < -2 ^ 15 ∨ 2 ^ 15 ≤ x.toInt + y.toInt := by
  rw [addOverflow_eq_saddOverflow, BitVec.saddOverflow, Bool.or_eq_true, decide_eq_true_iff, decide_eq_true_iff]
  exact or_comm

/-- R175: V of SUB says that the exact signed difference does not fit 16 bits. -/
theorem subOverflow_iff (x y : Word) :
    subOverflow x y = true ↔ x.toInt - y.toInt < -2 ^ 15 ∨ 2 ^ 15 ≤ x.toInt - y.toInt := by
  rw [subOverflow_eq_ssubOverflow, BitVec.ssubOverflow, Bool.or_eq_true, decide_eq_true_iff, decide_eq_true_iff]
  exact or_comm

theorem addCarry_iff (x y : Word) : addCarry x y = true ↔ 2 ^ 16 ≤ x.toNat + y.toNat := by
  rw [addCarry_eq, decide_eq_true_iff]

/-- R175: C of SUB, the borrow, says that the exact unsigned difference is below 0. -/
theorem subCarry_iff (x y : Word) : subCarry x y = true ↔ (x.toNat : Int) - y.toNat < 0 := by
  rw [subCarry_eq, decide_eq_true_iff, BitVec.lt_def]
  omega

/-! ### The flag banks -/

theorem FlagBank.setNZ_eq (f : FlagBank) (r : Word) :
    f.setNZ r = { f with n := r.getLsbD 15, z := decide (r = 0) } := rfl

theorem FlagBank.afterAdd_eq (f : FlagBank) (x y : Word) :
    f.afterAdd x y = { f with
      n := (x + y).getLsbD 15, z := decide (x + y = 0), c := decide (2 ^ 16 ≤ x.toNat + y.toNat),
      v := decide (x.getLsbD 15 = y.getLsbD 15) && decide ((x + y).getLsbD 15 ≠ x.getLsbD 15) } := by
  have hv : addOverflow x y =
      (decide (x.getLsbD 15 = y.getLsbD 15) && decide ((x + y).getLsbD 15 ≠ x.getLsbD 15)) := by
    simp only [addOverflow, bne, beq_eq_decide, decide_not]
  rw [FlagBank.afterAdd, FlagBank.setNZ_eq, addCarry_eq, hv]

theorem FlagBank.afterSub_eq (f : FlagBank) (x y : Word) :
    f.afterSub x y = { f with
      n := (x - y).getLsbD 15, z := decide (x - y = 0), c := decide (x.toNat < y.toNat),
      v := decide (x.getLsbD 15 ≠ y.getLsbD 15) && decide ((x - y).getLsbD 15 ≠ x.getLsbD 15) } := by
  have hv : subOverflow x y =
      (decide (x.getLsbD 15 ≠ y.getLsbD 15) && decide ((x - y).getLsbD 15 ≠ x.getLsbD 15)) := by
    simp only [subOverflow, bne, beq_eq_decide, decide_not]
  rw [FlagBank.afterSub, FlagBank.setNZ_eq, hv]
  rfl

/-! ### The instructions -/

theorem exec_add (rd : Reg) (w : Bool) (b : Operand) (s : State) :
    exec (.add rd w b) s =
      s.aluNext rd w (s.readReg rd + s.operand b) (s.flags.afterAdd (s.readReg rd) (s.operand b)) := rfl

theorem exec_sub (rd : Reg) (w : Bool) (b : Operand) (s : State) :
    exec (.sub rd w b) s =
      s.aluNext rd w (s.readReg rd - s.operand b) (s.flags.afterSub (s.readReg rd) (s.operand b)) := rfl

theorem exec_and (rd : Reg) (w : Bool) (b : Operand) (s : State) :
    exec (.and rd w b) s = s.logicNext rd w (s.readReg rd &&& s.operand b) := rfl

theorem exec_or (rd : Reg) (w : Bool) (b : Operand) (s : State) :
    exec (.or rd w b) s = s.logicNext rd w (s.readReg rd ||| s.operand b) := rfl

theorem exec_xor (rd : Reg) (w : Bool) (b : Operand) (s : State) :
    exec (.xor rd w b) s = s.logicNext rd w (s.readReg rd ^^^ s.operand b) := rfl

/-- What `logicNext` can do (R164 to R166): V and C are not among the flags written. -/
theorem State.logicNext_spec (s : State) (rd : Reg) (w : Bool) (r : Word) :
    ∃ t, s.logicNext rd w r = .next t ∧
      RegAndFlagsWritten s t rd w r { s.flags with n := r.getLsbD 15, z := decide (r = 0) } :=
  s.aluNext_spec rd w r (s.flags.setNZ r)

/-- The bank of the view that ran, read off an ALU instruction's end. -/
theorem State.aluNext_flagsOf (s : State) (rd : Reg) (w : Bool) (r : Word) (f : FlagBank) :
    ∃ t, s.aluNext rd w r f = .next t ∧ t.flagsOf s.view = f := by
  obtain ⟨t, ht, -, ⟨hactive, -⟩, -⟩ := s.aluNext_spec rd w r f
  exact ⟨t, ht, hactive⟩

/-- Settles O34: ADD ends as every ALU instruction does, with the bank `afterAdd`. -/
theorem addResultAndFlags : Obligations.AddResultAndFlags := by
  rintro rd w b s x y r rfl rfl rfl
  rw [exec_add, ← FlagBank.afterAdd_eq]
  exact s.aluNext_spec rd w _ _

/-- Settles O35: SUB ends as every ALU instruction does, with the bank `afterSub`. -/
theorem subResultAndFlags : Obligations.SubResultAndFlags := by
  rintro rd w b s x y r rfl rfl rfl
  rw [exec_sub, ← FlagBank.afterSub_eq]
  exact s.aluNext_spec rd w _ _

/-- Settles O36: the bank left behind holds `addOverflow` and `addCarry`, or `subOverflow` and `subCarry`, whose meaning is known. -/
theorem overflowAndCarryMeaning : Obligations.OverflowAndCarryMeaning := by
  rintro rd w b s x y rfl rfl
  rw [exec_add, exec_sub]
  constructor
  · obtain ⟨t, ht, hflags⟩ := s.aluNext_flagsOf rd w (s.readReg rd + s.operand b) (s.flags.afterAdd _ _)
    refine ⟨t, ht, ?_⟩
    rw [hflags]
    exact ⟨addOverflow_iff _ _, addCarry_iff _ _⟩
  · obtain ⟨t, ht, hflags⟩ := s.aluNext_flagsOf rd w (s.readReg rd - s.operand b) (s.flags.afterSub _ _)
    refine ⟨t, ht, ?_⟩
    rw [hflags]
    exact ⟨subOverflow_iff _ _, subCarry_iff _ _⟩

/-- Settles O37: the word written is the bitwise one, and V and C are kept. -/
theorem logicResultsAndFlags : Obligations.LogicResultsAndFlags := by
  rintro rd w b s x y rfl rfl
  refine ⟨?_, ?_, ?_⟩
  · obtain ⟨t, ht, hwritten⟩ := s.logicNext_spec rd w (s.readReg rd &&& s.operand b)
    exact ⟨t, _, ht, fun _ => BitVec.getLsbD_and, hwritten⟩
  · obtain ⟨t, ht, hwritten⟩ := s.logicNext_spec rd w (s.readReg rd ||| s.operand b)
    exact ⟨t, _, ht, fun _ => BitVec.getLsbD_or, hwritten⟩
  · obtain ⟨t, ht, hwritten⟩ := s.logicNext_spec rd w (s.readReg rd ^^^ s.operand b)
    exact ⟨t, _, ht, fun _ => BitVec.getLsbD_xor, hwritten⟩

end Sys2Proof.Machine
end

section
/-! SUPPORT. The eight shifts and rotates: the word each leaves bit by bit, SRA as a division, and the effect of a shift as R183 lists it (43_shift.md R180 to R192). -/

namespace Sys2Proof.Machine

/-! ### The words -/

/-- R182: SLC's word is that of SL with the old carry ORed into bit 0 (D16). -/
theorem getLsbD_leftWithCarry (c : Bool) (x : Word) (n k : Nat) (hk : k < 16) :
    (leftWithCarry c x n).getLsbD k = (decide (n ≤ k) && x.getLsbD (k - n) || decide (k = 0) && c) := by
  rw [leftWithCarry_eq, BitVec.getLsbD_or, getLsbD_shl x n k hk, getLsbD_carryAt_zero c k hk]

/-- R182: the word of SRC, SAC or ROC is the shifted one, of bits `b`, with the old carry ORed into bit 15 (D16). -/
theorem getLsbD_rightWithCarry {shifted : Word} {b : Nat → Bool} (c : Bool) (x : Word) (n : Nat)
    (hbits : ∀ k < 16, shifted.getLsbD k = b k) :
    ∀ k < 16, (rightWithCarry c x shifted n).getLsbD k = (b k || decide (k = 15) && c) := by
  intro k hk
  rw [rightWithCarry_eq, BitVec.getLsbD_or, getLsbD_carryAt_top c k hk, hbits k hk]

/-- The spec's sra, a shift ORed with a mask, is the library's arithmetic shift (R181, G1). -/
theorem sra_eq_sshiftRight (x : Word) (n : Nat) (hn : n < 8) : sra x n = x.sshiftRight n := by
  apply BitVec.eq_of_getLsbD_eq
  intro k hk
  rw [getLsbD_sra x n k hn hk, BitVec.getLsbD_sshiftRight, BitVec.msb_eq_getLsbD_last]
  by_cases hfits : n + k < 16
  · simp [hfits, show ¬ 16 ≤ k by omega, show min (k + n) 15 = n + k by omega]
  · simp [hfits, show ¬ 16 ≤ k by omega, show min (k + n) 15 = 15 by omega]

/-- R189: sra is the floor of the signed quotient; Lean's `/` by a positive integer rounds down. -/
theorem sra_toInt (x : Word) (n : Nat) (hn : n < 8) : (sra x n).toInt = x.toInt / 2 ^ n := by
  rw [sra_eq_sshiftRight x n hn, BitVec.toInt_sshiftRight, Int.shiftRight_eq_div_pow]
  norm_cast

/-! ### The instructions -/

theorem exec_sl (rd : Reg) (count : BitVec 3) (s : State) :
    exec (.sl rd count) s = s.leftNext rd count (shl (s.readReg rd) count.toNat) := rfl

theorem exec_slc (rd : Reg) (count : BitVec 3) (s : State) :
    exec (.slc rd count) s = s.leftNext rd count (leftWithCarry s.flags.c (s.readReg rd) count.toNat) := rfl

theorem exec_sr (rd : Reg) (count : BitVec 3) (s : State) :
    exec (.sr rd count) s = s.rightNext rd count (shr (s.readReg rd) count.toNat) := rfl

theorem exec_src (rd : Reg) (count : BitVec 3) (s : State) :
    exec (.src rd count) s = s.rightNext rd count
      (rightWithCarry s.flags.c (s.readReg rd) (shr (s.readReg rd) count.toNat) count.toNat) := rfl

theorem exec_sra (rd : Reg) (count : BitVec 3) (s : State) :
    exec (.sra rd count) s = s.rightNext rd count (sra (s.readReg rd) count.toNat) := rfl

theorem exec_sac (rd : Reg) (count : BitVec 3) (s : State) :
    exec (.sac rd count) s = s.rightNext rd count
      (rightWithCarry s.flags.c (s.readReg rd) (sra (s.readReg rd) count.toNat) count.toNat) := rfl

theorem exec_ror (rd : Reg) (count : BitVec 3) (s : State) :
    exec (.ror rd count) s = s.rightNext rd count (ror (s.readReg rd) count.toNat) := rfl

theorem exec_roc (rd : Reg) (count : BitVec 3) (s : State) :
    exec (.roc rd count) s = s.rightNext rd count
      (rightWithCarry s.flags.c (s.readReg rd) (ror (s.readReg rd) count.toNat) count.toNat) := rfl

theorem FlagBank.afterShift_eq (f : FlagBank) (r : Word) (c : Bool) :
    f.afterShift r c = { f with n := r.getLsbD 15, z := decide (r = 0), c := c } := rfl

/-- C of a left shift is the last bit out at the top (R183, D17). -/
theorem State.leftNext_eq (s : State) (rd : Reg) (count : BitVec 3) (r : Word) :
    s.leftNext rd count r = s.shiftNext rd r
      (if count.toNat = 0 then s.flags.c else (s.readReg rd).getLsbD (16 - count.toNat)) := rfl

/-- C of a right shift or rotate is the last bit out at the bottom (R183, D17). -/
theorem State.rightNext_eq (s : State) (rd : Reg) (count : BitVec 3) (r : Word) :
    s.rightNext rd count r = s.shiftNext rd r
      (if count.toNat = 0 then s.flags.c else (s.readReg rd).getLsbD (count.toNat - 1)) := rfl

/-- `shiftNext` with its word given by its bits `b` (R180, R183). -/
theorem State.shiftNext_bits {r : Word} {b : Nat → Bool} (s : State) (rd : Reg) (c : Bool)
    (hbits : ∀ k < 16, r.getLsbD k = b k) :
    ∃ t r', s.shiftNext rd r c = .next t ∧ (∀ k < 16, r'.getLsbD k = b k) ∧
      RegAndFlagsWritten s t rd true r' { s.flags with n := r'.getLsbD 15, z := decide (r' = 0), c := c } := by
  obtain ⟨t, ht, hwritten⟩ := s.shiftNext_spec rd r c
  rw [FlagBank.afterShift_eq] at hwritten
  exact ⟨t, r, ht, hbits, hwritten⟩

/-- Settles O40: SL and SLC end as left shifts, and the bits of their words are known. -/
theorem leftShiftResults : Obligations.LeftShiftResults := by
  rintro rd count s x n c rfl rfl rfl
  rw [exec_sl, exec_slc, State.leftNext_eq, State.leftNext_eq]
  exact ⟨s.shiftNext_bits rd _ (getLsbD_shl _ _), s.shiftNext_bits rd _ (getLsbD_leftWithCarry _ _ _)⟩

/-- Settles O41: SR and SRC end as right shifts, with the bits of `shr`. -/
theorem logicalRightShiftResults : Obligations.LogicalRightShiftResults := by
  rintro rd count s x n c rfl rfl rfl
  have hbits := fun k (_ : k < 16) => getLsbD_shr (s.readReg rd) count.toNat k
  rw [exec_sr, exec_src, State.rightNext_eq, State.rightNext_eq]
  exact ⟨s.shiftNext_bits rd _ hbits, s.shiftNext_bits rd _ (getLsbD_rightWithCarry _ _ _ hbits)⟩

/-- Settles O42: SRA and SAC end as right shifts, with the bits of `sra`. -/
theorem arithmeticRightShiftResults : Obligations.ArithmeticRightShiftResults := by
  rintro rd count s x n c rfl rfl rfl
  have hbits := fun k => getLsbD_sra (s.readReg rd) count.toNat k count.isLt
  rw [exec_sra, exec_sac, State.rightNext_eq, State.rightNext_eq]
  exact ⟨s.shiftNext_bits rd _ hbits, s.shiftNext_bits rd _ (getLsbD_rightWithCarry _ _ _ hbits)⟩

/-- Settles O43: SRA ends as every shift does, and its word is the floored quotient. -/
theorem sraIsFloorDivision : Obligations.SraIsFloorDivision := by
  intro rd count s
  rw [exec_sra, State.rightNext_eq]
  obtain ⟨t, ht, hwritten⟩ := s.shiftNext_spec rd (sra (s.readReg rd) count.toNat) _
  exact ⟨t, _, _, ht, sra_toInt _ _ count.isLt, hwritten⟩

/-- Settles O44: ROR and ROC end as right shifts, with the bits of `ror`. -/
theorem rotateRightResults : Obligations.RotateRightResults := by
  rintro rd count s x n c rfl rfl rfl
  have hbits := fun k => getLsbD_ror (s.readReg rd) count.toNat k count.isLt
  rw [exec_ror, exec_roc, State.rightNext_eq, State.rightNext_eq]
  exact ⟨s.shiftNext_bits rd _ hbits, s.shiftNext_bits rd _ (getLsbD_rightWithCarry _ _ _ hbits)⟩

end Sys2Proof.Machine
end

section
/-! SUPPORT. The jumps: the short jumps' signed target, and the three outcomes of LJMP (44_jump.md R201 to R210; 70_reset_and_hazards.md R302). -/

namespace Sys2Proof.Machine

/-! ### The short jumps -/

theorem exec_jmp (target : BitVec 8) (s : State) : exec (.jmp target) s = s.jumpIf true target := rfl
theorem exec_jz (target : BitVec 8) (s : State) : exec (.jz target) s = s.jumpIf s.flags.z target := rfl
theorem exec_jnz (target : BitVec 8) (s : State) : exec (.jnz target) s = s.jumpIf (!s.flags.z) target := rfl
theorem exec_jc (target : BitVec 8) (s : State) : exec (.jc target) s = s.jumpIf s.flags.c target := rfl
theorem exec_jnc (target : BitVec 8) (s : State) : exec (.jnc target) s = s.jumpIf (!s.flags.c) target := rfl
theorem exec_jn (target : BitVec 8) (s : State) : exec (.jn target) s = s.jumpIf s.flags.n target := rfl
theorem exec_jnn (target : BitVec 8) (s : State) : exec (.jnn target) s = s.jumpIf (!s.flags.n) target := rfl

/-- R201: A plus the signed offset, brought back into 16 bits where it leaves them (D5, D34). -/
theorem add_sext_toInt (a : Word) (target : BitVec 8) :
    (a + sext target).toInt = (a.toInt + target.toInt).bmod (2 ^ 16) := by
  rw [BitVec.toInt_add, sext, BitVec.toInt_signExtend_of_le (by decide)]

/-- `jumpIf` for a jump taken when its flag is 0 (R204, R206, R208). -/
theorem State.jumpIf_not_spec (s : State) (flag : Bool) (target : BitVec 8) :
    ∃ t, s.jumpIf (!flag) target = .next t ∧
      OnlyPcWritten s t (if flag = false then s.pc + sext target else s.pc + 1) := by
  simpa only [Bool.not_eq_true'] using s.jumpIf_spec (!flag) target

/-- Settles O45: the two numbers fix the words `jumpIf` chooses from, and each jump is `jumpIf` on its flag or on the flag's negation. -/
theorem shortJumpTargets : Obligations.ShortJumpTargets := by
  intro target s dest next hdest hnext
  obtain rfl : dest = s.pc + sext target := BitVec.eq_of_toInt_eq (by rw [hdest, add_sext_toInt])
  obtain rfl : next = s.pc + 1 := BitVec.eq_of_toNat_eq (by rw [hnext, BitVec.toNat_add]; rfl)
  rw [exec_jmp, exec_jz, exec_jnz, exec_jc, exec_jnc, exec_jn, exec_jnn]
  exact ⟨s.jumpIf_spec true target, s.jumpIf_spec _ target, s.jumpIf_not_spec _ target, s.jumpIf_spec _ target,
    s.jumpIf_not_spec _ target, s.jumpIf_spec _ target, s.jumpIf_not_spec _ target⟩

/-! ### JRL -/

theorem exec_jrl (rs : Reg) (s : State) : exec (.jrl rs) s = s.writeNext Reg.r15 (s.readReg rs) := rfl

/-- Settles O46: a write of R15 is a jump (R39). -/
theorem jrlJumpsToRegister : Obligations.JrlJumpsToRegister := by
  intro rs s
  rw [exec_jrl]
  exact s.writeNext_r15_spec _

/-! ### LJMP -/

theorem exec_ljmp_defined {rs : Reg} {s : State} {newCs newPc : Word}
    (hcs : s.mem.readWord (s.phys .ds (s.readReg rs)) = some newCs)
    (hpc : s.mem.readWord (s.phys .ds (s.readReg rs + 1)) = some newPc) :
    exec (.ljmp rs) s = .next ((s.advance.writeReg Reg.r15 newPc).setSeg .cs newCs) := by
  rw [exec_ljmp, State.load_some hcs, State.load_some hpc]

theorem exec_ljmp_firstUndefined {rs : Reg} {s : State}
    (hcs : s.mem.readWord (s.phys .ds (s.readReg rs)) = none) :
    exec (.ljmp rs) s = .fault (.unspecified (s.phys .ds (s.readReg rs))) := by
  rw [exec_ljmp, State.load_none hcs]

theorem exec_ljmp_secondUndefined {rs : Reg} {s : State} {newCs : Word}
    (hcs : s.mem.readWord (s.phys .ds (s.readReg rs)) = some newCs)
    (hpc : s.mem.readWord (s.phys .ds (s.readReg rs + 1)) = none) :
    exec (.ljmp rs) s = .fault (.unspecified (s.phys .ds (s.readReg rs + 1))) := by
  rw [exec_ljmp, State.load_some hcs, State.load_none hpc]

theorem State.writeReg_r15_onlyPcWritten (s : State) (a : Word) :
    OnlyPcWritten s (s.advance.writeReg Reg.r15 a) a := by
  obtain ⟨_, ⟨rfl⟩, hwritten⟩ := s.writeNext_r15_spec a
  exact hwritten

/-- Settles O47: with both table words LJMP is a write of R15, then of CS; a missing one stops its read. -/
theorem ljmpLoadsCsAndPc : Obligations.LjmpLoadsCsAndPc := by
  rintro rs s p q rfl rfl
  refine ⟨fun newCs newPc hcs hpc => ?_, exec_ljmp_firstUndefined, fun hsome hpc => ?_⟩
  · obtain ⟨hregs, hbecame, hflags, hmode, ⟨-, hdata⟩, hmem⟩ := s.writeReg_r15_onlyPcWritten newPc
    exact ⟨_, exec_ljmp_defined hcs hpc, rfl, hbecame, hregs, hflags, hmode, hdata, hmem⟩
  · obtain ⟨newCs, hcs⟩ := Option.isSome_iff_exists.mp hsome
    exact exec_ljmp_secondUndefined hcs hpc

end Sys2Proof.Machine
end

section
/-! SUPPORT. SET, CLR and MVS: the status byte written whole, the change of view by mask bit 4, and the segment registers (45_psw_segment_special.md R220 to R224). -/

namespace Sys2Proof.Machine

/-! ### The status byte -/

/-- What SET and CLR can do once their byte is known: its bits go to the bank of the view that ran, to S and to I, and the rest is `advance` (R220, R221, D37). -/
theorem State.writePswLow_spec (s : State) (p : Byte) :
    let t := s.advance.writePswLow s.view p
    FlagsBecame s t (FlagBank.ofByte p) ∧ t.sBit = p.getLsbD 4 ∧ t.iBit = p.getLsbD 5 ∧ PcBecame s t (s.pc + 1) ∧
      t.halted = s.halted ∧ t.inputs = s.inputs ∧ t.latches = s.latches ∧ RegsKept s t ∧ SegsKept s t ∧ MemKept s t := by
  refine ⟨?_, rfl, rfl, ?_, by simp, by simp, by simp, by simp [RegsKept], ?_, MemKept.of_eq (by simp)⟩
  · constructor <;> simp
  · constructor <;> simp
  · exact ⟨by simp, by simp, by simp, by simp⟩

/-- Settles O48: the byte SET writes, read bit by bit. -/
theorem setOrsMaskIntoStatus : Obligations.SetOrsMaskIntoStatus := by
  intro mask s
  obtain ⟨-, -, -, -, hS, hI, -⟩ := s.psw_getLsbD s.view
  have hwritten := s.writePswLow_spec (bits (s.psw s.view) 0 8 ||| mask)
  simp (disch := decide) only [FlagBank.ofByte_psw_or, getLsbD_psw_or, hS, hI] at hwritten
  exact ⟨_, exec_set mask s, hwritten⟩

/-- Settles O49: the byte CLR writes, read bit by bit. -/
theorem clrClearsMaskInStatus : Obligations.ClrClearsMaskInStatus := by
  intro mask s
  obtain ⟨-, -, -, -, hS, hI, -⟩ := s.psw_getLsbD s.view
  have hwritten := s.writePswLow_spec (bits (s.psw s.view) 0 8 &&& ~~~mask)
  simp (disch := decide) only [FlagBank.ofByte_psw_andNot, getLsbD_psw_andNot, hS, hI] at hwritten
  exact ⟨_, exec_clr mask s, hwritten⟩

/-! ### Mask bit 4 -/

/-- The whole effect of a mask that names bit 4 alone: the view that ran advances, S is `inIsr`, nothing else changes (R222). -/
def OnlySWritten (s t : State) (inIsr : Bool) : Prop :=
  t.sBit = inIsr ∧ t.iBit = s.iBit ∧ PcBecame s t (s.pc + 1) ∧ FlagsBecame s t s.flags ∧ t.halted = s.halted ∧
    t.inputs = s.inputs ∧ t.latches = s.latches ∧ RegsKept s t ∧ SegsKept s t ∧ MemKept s t

theorem exec_set_sMask (s : State) : ∃ t, exec (.set 0x10) s = .next t ∧ OnlySWritten s t true := by
  obtain ⟨t, ht, hflags, hS, hI, hpc, hrest⟩ := setOrsMaskIntoStatus 0x10 s
  exact ⟨t, ht, by simpa using hS, by simpa using hI, hpc, by simpa using hflags, hrest⟩

theorem exec_clr_sMask (s : State) : ∃ t, exec (.clr 0x10) s = .next t ∧ OnlySWritten s t false := by
  obtain ⟨t, ht, hflags, hS, hI, hpc, hrest⟩ := clrClearsMaskInStatus 0x10 s
  exact ⟨t, ht, by simpa using hS, by simpa using hI, hpc, by simpa using hflags, hrest⟩

/-- The bank of the view that ran keeping its flags, both banks are kept. -/
theorem FlagsBecame.flagsKept {s t : State} (h : FlagsBecame s t s.flags) : FlagsKept s t := by
  obtain ⟨hactive, hother⟩ := h
  rw [State.flags] at hactive
  cases hview : s.view <;> rw [hview] at hactive hother
  case normal => exact ⟨hactive, hother⟩
  case shadow => exact ⟨hother, hactive⟩

/-- Where S already has the value, only the program counter moves. -/
theorem OnlySWritten.onlyPcWritten {s t : State} {inIsr : Bool} (h : OnlySWritten s t inIsr) (hsame : s.sBit = inIsr) :
    OnlyPcWritten s t (s.pc + 1) := by
  obtain ⟨hS, hI, hpc, hflags, hhalted, hinputs, hlatches, hregs, hsegs, hmem⟩ := h
  exact ⟨hregs, hpc, hflags.flagsKept, ⟨hS.trans hsame.symm, hI, hhalted, hinputs, hlatches⟩, hsegs, hmem⟩

theorem State.view_eq_other {s t : State} (h : s.sBit = !t.sBit) : t.view = s.view.other := by
  cases hS : t.sBit <;> simp [State.view, View.other, h, hS]

/-- Where S changes, the next instruction finds the program counter and the flags of the other view, as that view left them (R222). -/
theorem OnlySWritten.view_switched {s t : State} {inIsr : Bool} (h : OnlySWritten s t inIsr) (hchange : s.sBit = !inIsr) :
    t.pc = s.pcOf s.view.other ∧ t.flags = s.flagsOf s.view.other ∧ t.pcOf s.view = s.pcOf s.view + 1 ∧
      t.flagsOf s.view = s.flagsOf s.view ∧ t.cs = s.cs ∧ t.iBit = s.iBit := by
  obtain ⟨hS, hI, ⟨hpc, hpcOther⟩, ⟨hflags, hflagsOther⟩, -, -, -, -, ⟨hcs, -⟩, -⟩ := h
  have hview : t.view = s.view.other := State.view_eq_other (by rw [hS, hchange])
  rw [State.pc, State.flags, hview]
  exact ⟨hpcOther, hflagsOther, hpc, hflags, hcs, hI⟩

/-- Settles O50: S changes in the first two clauses and already has its value in the last two. -/
theorem statusBitFourSwitchesTheView : Obligations.StatusBitFourSwitchesTheView := by
  refine ⟨fun s hS => ?_, fun s hS => ?_, fun s => ⟨fun hS => ?_, fun hS => ?_⟩⟩
  · obtain ⟨t, ht, hwritten⟩ := exec_set_sMask s
    have hswitched := hwritten.view_switched hS
    rw [State.view_eq_normal hS] at hswitched
    exact ⟨t, ht, hswitched⟩
  · obtain ⟨t, ht, hwritten⟩ := exec_clr_sMask s
    have hswitched := hwritten.view_switched hS
    rw [State.view_eq_shadow hS] at hswitched
    exact ⟨t, ht, hswitched⟩
  · obtain ⟨t, ht, hwritten⟩ := exec_set_sMask s
    exact ⟨t, ht, hwritten.onlyPcWritten hS⟩
  · obtain ⟨t, ht, hwritten⟩ := exec_clr_sMask s
    exact ⟨t, ht, hwritten.onlyPcWritten hS⟩

/-! ### Segment registers -/

theorem exec_mvsFromSeg (rd : Reg) (seg : Seg) (s : State) :
    exec (.mvsFromSeg rd seg) s = s.writeNext rd (s.segOf seg) := rfl

/-- Settles O51: the word is the row's, and the effect is that of writing Rd with SEG[Seg]. -/
theorem mvsReadsSegment : Obligations.MvsReadsSegment := by
  intro rd seg s
  obtain ⟨t, ht, hwritten⟩ := s.writeNext_spec rd (s.segOf seg)
  rw [← exec_mvsFromSeg] at ht
  refine ⟨decodeWord_of_encodeLayout (pack_four rfl ..) rfl, t, s.segOf seg, ht, hwritten, ?_⟩
  cases seg <;> rfl

@[simp] theorem State.advance_segOf (s : State) (u : Seg) : s.advance.segOf u = s.segOf u := by
  cases u <;> simp [State.segOf]

/-- Settles O52: `setSeg` after `advance`, one segment register at a time, and the frame of `advance`. -/
theorem mvsWritesSegment : Obligations.MvsWritesSegment := by
  intro rd seg s
  have hseg (u : Seg) :
      (s.advance.setSeg seg (s.readReg rd)).segOf u = if seg = u then s.readReg rd else s.segOf u := by
    rw [State.setSeg_segOf, State.advance_segOf]
    simp only [eq_comm]
  refine ⟨_, exec_mvsToSeg rd seg s, hseg .cs, hseg .ds, hseg .ss, hseg .es, ?_, by simp [RegsKept], ?_, ?_,
    MemKept.of_eq (by simp)⟩
  · constructor <;> simp
  · constructor <;> simp
  · exact ⟨by simp, by simp, by simp, by simp, by simp⟩

end Sys2Proof.Machine
end

section
/-! SUPPORT. SWB and INV: the numbers of the two words, and the effect of writing one register (46_swb_inv.md R240, R241). -/

namespace Sys2Proof.Machine

theorem exec_swb (rx : Reg) (s : State) : exec (.swb rx) s = s.writeNext rx (swapBytes (s.readReg rx)) := rfl

theorem exec_inv (rx : Reg) (s : State) : exec (.inv rx) s = s.writeNext rx (~~~(s.readReg rx)) := rfl

/-- The low byte goes up by 2^8 and the high byte comes down by as much (R240). -/
theorem swapBytes_toNat (x : Word) : (swapBytes x).toNat = x.toNat % 256 * 256 + x.toNat / 256 := by
  have hbytes : (swapBytes x).toNat = (bits x 0 8).toNat * 2 ^ 8 + (bits x 8 8).toNat := toNat_append_eq ..
  rw [hbytes, bits_toNat, bits_toNat]
  omega

/-- Settles O54: the word is the row's, and the effect is that of writing Rx with its bytes exchanged. -/
theorem swbSwapsBytes : Obligations.SwbSwapsBytes := by
  intro rx s
  obtain ⟨t, ht, hwritten⟩ := s.writeNext_spec rx (swapBytes (s.readReg rx))
  rw [← exec_swb] at ht
  exact ⟨decodeWord_of_encodeLayout (pack_three rfl ..) rfl, t, _, ht, swapBytes_toNat _, hwritten⟩

/-- Settles O55: the word is the row's, and the complement written is 0xFFFF minus the register. -/
theorem invInvertsBits : Obligations.InvInvertsBits := by
  intro rx s
  obtain ⟨t, ht, hwritten⟩ := s.writeNext_spec rx (~~~(s.readReg rx))
  rw [← exec_inv] at ht
  exact ⟨decodeWord_of_encodeLayout (pack_three rfl ..) rfl, t, _, ht, BitVec.toNat_not, hwritten⟩

end Sys2Proof.Machine
end

section
/-! SUPPORT. The boundary: the fetch of an undefined word, the halted core, the reset event, and the interrupt taken instead of the fetch; then the state that trap entry leaves (47_system.md R252; 60_exceptions.md R265 to R271; 70_reset_and_hazards.md R300 to R302). -/

namespace Sys2Proof.Machine

/-! ### Fetch, halt and reset -/

/-- Settles O7: at a quiet boundary nothing comes before the fetch. -/
theorem fetchOfUndefinedWordFaults : Obligations.FetchOfUndefinedWordFaults := by
  intro s hq hundefined
  have hfetch : s.sampled.fetch = none := hundefined
  rw [step_quiet hq, fetchAndRun_eq, hfetch]
  rfl

/-- Settles O9: a halted core's step only samples the inputs (D23). -/
theorem haltedCoreDoesNothing : Obligations.HaltedCoreDoesNothing :=
  fun _ hhalted hreset => step_halted hreset hhalted

/-- Settles O16: the step is the reset event before halt or request is looked at, and that event turns on vector word 0. -/
theorem resetEventEntersVectorZero : Obligations.ResetEventEntersVectorZero := by
  intro s hreset
  rw [step_reset hreset, takeReset_eq, State.sampled_mem]
  refine ⟨fun target hvector => ?_, fun hundefined => ?_⟩
  · rw [hvector]
    exact ⟨_, rfl, rfl, rfl, rfl, rfl, rfl, MemKept.of_eq rfl, rfl⟩
  · rw [hundefined]

/-! ### Trap entry -/

/-- The normal view's program counter, whichever view ran. -/
theorem PcBecame.pcNormal_eq {s t : State} {a : Word} (h : PcBecame s t a) :
    t.pcNormal = if s.sBit then s.pcNormal else a := by
  obtain ⟨hactive, hother⟩ := h
  cases hS : s.sBit
  · rw [State.view_eq_normal hS] at hactive
    exact hactive
  · rw [State.view_eq_shadow hS] at hother
    exact hother

theorem OnlyPcWritten.refl (s : State) : OnlyPcWritten s s s.pc :=
  ⟨.refl s, ⟨rfl, rfl⟩, .refl s, .refl s, .refl s, .of_eq rfl⟩

/-- Trap entry once the running view holds the resume address: R270's four assignments, and the frame. -/
theorem OnlyPcWritten.trapEntered {s u : State} {resume : Word} (h : OnlyPcWritten s u resume) (target : Word) :
    TrapEntered s (u.trapTo target) target resume := by
  obtain ⟨hregs, hpc, hflags, ⟨-, -, hhalted, -, hlatches⟩, ⟨-, hdata⟩, hmem⟩ := h
  exact ⟨rfl, rfl, rfl, rfl, hpc.pcNormal_eq, hhalted, hlatches, hregs, hflags, hdata, hmem⟩

/-- An enabled request with the core running is taken whichever view runs (R265). -/
theorem step_of_request {s : State} (hhalted : s.halted = false) (hreset : s.pins.resetLine = false)
    (hline : s.pins.irqLine = true) (hI : s.iBit = true) : step s = enterTrap 2 s.sampled :=
  step_irq hreset hhalted (by simp [State.irqTaken_eq, hline, hI])

/-- Settles O17: sampling moves no program counter, so the interrupted view holds the address not yet fetched. -/
theorem hardwareInterruptTaken : Obligations.HardwareInterruptTaken := by
  intro s hhalted hreset hline hI
  rw [step_of_request hhalted hreset hline hI]
  refine ⟨fun target hvector => ?_, fun hundefined => enterTrap_of_undefined hundefined⟩
  have hentered : TrapEntered s.sampled (s.sampled.trapTo target) target s.pc :=
    (OnlyPcWritten.refl s.sampled).trapEntered target
  exact ⟨_, enterTrap_of_vector hvector, hentered, rfl⟩

end Sys2Proof.Machine
end

section
/-! SUPPORT. NOP, HLT, SWI and RETI: word, effect and frame (47_system.md R250 to R254). -/

namespace Sys2Proof.Machine

/-- Settles O56: NOP is `advance`; the boundary after it is like any other. -/
theorem nopOnlyAdvances : Obligations.NopOnlyAdvances :=
  ⟨decodeWord_of_encodeLayout (i := .nop) rfl rfl, fun s =>
    ⟨_, exec_nop s, s.advance_spec, step_of_request⟩⟩

/-- Settles O57: HLT is `advance` and the halted bit. -/
theorem hltHalts : Obligations.HltHalts := by
  intro s
  obtain ⟨hregs, hpc, hflags, ⟨hS, hI, -, hinputs, hlatches⟩, hsegs, hmem⟩ := s.advance_spec
  exact ⟨_, exec_hlt s, rfl, hpc, hS, hI, hinputs, hlatches, hregs, hflags, hsegs, hmem⟩

/-- Settles O58: SWI is `advance`, then trap entry through vector word 1, in either view. -/
theorem swiEntersVectorOne : Obligations.SwiEntersVectorOne := by
  intro s
  refine ⟨fun target hvector => ?_, fun hundefined => ?_⟩
  · exact ⟨_, exec_swi_of_vector s hvector, s.advance_spec.trapEntered target, s.advance_inputs⟩
  · rw [exec_swi]
    exact enterTrap_of_undefined (by simpa using hundefined)

/-- RETI leaves the normal view running, at its own program counter; only where that view ran the RETI has it advanced (R254, log 18). -/
theorem State.advance_returnFromTrap_pc (s : State) :
    s.advance.returnFromTrap.pc = if s.sBit then s.pcNormal else s.pcNormal + 1 := by
  have hpc : s.advance.returnFromTrap.pc = if s.sBit then s.pcNormal else s.pc + 1 := s.advance_pcBecame.pcNormal_eq
  rw [hpc, State.pc_eq_ite]
  split_ifs <;> rfl

/-- Settles O59: RETI is `advance`, then S <- 0 and I <- 1, so a request still pending is enabled at the next boundary. -/
theorem retiReturnsToNormalView : Obligations.RetiReturnsToNormalView := by
  refine ⟨decodeWord_of_encodeLayout (i := .reti) rfl rfl, fun s => ?_⟩
  obtain ⟨hregs, hpc, ⟨hnormal, hshadow⟩, ⟨-, -, hhalted, hinputs, hlatches⟩, hsegs, hmem⟩ := s.advance_spec
  refine ⟨_, exec_reti s, rfl, rfl, ?_, s.advance_returnFromTrap_pc, hnormal, hhalted, hinputs, hlatches, hregs,
    ⟨hnormal, hshadow⟩, hsegs, hmem, fun hrunning hreset hline => step_of_request hrunning hreset hline rfl⟩
  simpa only [PcBecame, State.returnFromTrap_pcOf] using hpc

end Sys2Proof.Machine
end

section
/-! SUPPORT. Handlers: what can set I in one, and the return of any handler to the program it came from (60_exceptions.md R265 to R277). -/

namespace Sys2Proof.Machine

/-! ### What can set I -/

/-- Of the instructions only RETI, and SET with mask bit 5, can leave I = 1 where it was 0 (R46, R220, R254). -/
theorem exec_iBit {i : Instr} {s t : State} (h : exec i s = .next t) (hset : t.iBit = true) :
    s.iBit = true ∨ i = .reti ∨ ∃ mask, i = .set mask ∧ mask.getLsbD 5 = true := by
  obtain ⟨-, -, -, -, -, hI, -⟩ := s.psw_getLsbD s.view
  cases exec_effect h with
  | trapReturn => exact .inr (.inl rfl)
  | trap => cases hset
  | setMask mask =>
    rw [State.writePswLow_iBit, getLsbD_psw_or _ _ (by decide), hI, Bool.or_eq_true] at hset
    exact hset.imp id fun hmask => .inr ⟨mask, rfl, hmask⟩
  | clearMask mask =>
    rw [State.writePswLow_iBit, getLsbD_psw_andNot _ _ (by decide), hI, Bool.and_eq_true] at hset
    obtain ⟨hkept, -⟩ := hset
    exact .inl hkept
  | arithmetic _ _ w => exact .inl (by cases w <;> simpa using hset)
  | pair _ _ w => exact .inl (by cases w <;> simpa using hset)
  | halt => exact .inl (s.advance_iBit.symm.trans hset)
  | _ => exact .inl (by simpa using hset)

/-- A step that sets I runs one of those two instructions: the other cases of a step clear I or keep it (R277). -/
theorem step_sets_iBit {s t : State} (h : step s = .next t) (hI : s.iBit = false) (hset : t.iBit = true) :
    ∃ w, s.fetch = some w ∧ (decodeWord w = .reti ∨ ∃ mask, decodeWord w = .set mask ∧ mask.getLsbD 5 = true) := by
  rcases step_next h with ⟨-, _, -, rfl⟩ | ⟨-, -, rfl⟩ | ⟨-, -, -, _, -, rfl⟩ | ⟨-, -, -, w, hw, hexec⟩
  · cases hset
  · simp [hI] at hset
  · cases hset
  · exact ⟨w, hw, (exec_iBit hexec hset).resolve_left (by simp [hI])⟩

/-- Settles O19: what trap entry writes, what I = 0 masks, and what can set I. -/
theorem handlerIsNotInterrupted : Obligations.HandlerIsNotInterrupted := by
  refine ⟨fun k s t h => ?_, fun s p rest _ => step_ignores_masked_line, fun s t _ hI h => step_sets_iBit h hI⟩
  obtain ⟨target, -, rfl⟩ := enterTrap_next h
  exact ⟨rfl, rfl⟩

/-! ### The return of a handler -/

/-- A handler's run, however long, writes nothing of the normal view (R41, R275). -/
theorem HandlerRun.normalViewKept {t u : State} (h : HandlerRun t u) :
    u.pcNormal = t.pcNormal ∧ u.flNormal = t.flNormal := by
  induction h with
  | refl => exact ⟨rfl, rfl⟩
  | step inIsr noReset next _ ih =>
    obtain ⟨hpcStep, hflagsStep⟩ := normalViewKeptInHandler _ _ inIsr noReset next
    obtain ⟨hpcRest, hflagsRest⟩ := ih
    exact ⟨hpcRest.trans hpcStep, hflagsRest.trans hflagsStep⟩

/-- The step from `u` to `v` returned to a program at `resume` with flags `f`: S = 0, I = 1, CS and the shadow flags the handler's, the shadow program counter past the RETI. -/
def ReturnedTo (u v : State) (resume : Word) (f : FlagBank) : Prop :=
  v.pc = resume ∧ v.flags = f ∧ v.sBit = false ∧ v.iBit = true ∧ v.cs = u.cs ∧ v.pcShadow = u.pcShadow + 1 ∧
    v.flShadow = u.flShadow

/-- A RETI run in the shadow view returns to the normal view as it stands. -/
theorem step_reti {u v : State} {x : Word} (hS : u.sBit = true) (hq : u.QuietBoundary) (hfetch : u.fetch = some x)
    (hreti : decodeWord x = .reti) (h : step u = .next v) : ReturnedTo u v u.pcNormal u.flNormal := by
  rw [step_of_fetch hq hfetch, hreti, exec_reti] at h
  cases h
  have hpc : u.sampled.advance.returnFromTrap.pc = u.pcNormal := by
    rw [State.advance_returnFromTrap_pc, State.sampled_sBit, hS]
    rfl
  have hshadow : u.sampled.advance.pcOf .shadow = u.pcShadow + 1 := by
    rw [State.advance_pcOf, State.sampled_view, State.view_eq_shadow hS, State.sampled_pc, State.pc_eq_ite, hS]
    rfl
  exact ⟨hpc, State.advance_flNormal _, rfl, rfl, State.advance_cs _, hshadow, State.advance_flShadow _⟩

/-- Whatever the handler ran from `t` on, its RETI returns to the normal view that `t` held. -/
theorem reti_after_handlerRun {t u v : State} {x : Word} (hrun : HandlerRun t u) (hS : u.sBit = true)
    (hq : u.QuietBoundary) (hfetch : u.fetch = some x) (hreti : decodeWord x = .reti) (h : step u = .next v) :
    ReturnedTo u v t.pcNormal t.flNormal := by
  obtain ⟨hpc, hflags⟩ := hrun.normalViewKept
  rw [← hpc, ← hflags]
  exact step_reti hS hq hfetch hreti h

/-- Settles O22: SWI leaves the address after it in the normal view, whose flags it keeps. -/
theorem swiHandlerReturnsAfterSwi : Obligations.SwiHandlerReturnsAfterSwi := by
  intro s t u v w x hnormal hsq hsfetch hswi hentry hrun hS hq hfetch hreti h
  rw [step_of_fetch hsq hsfetch, hswi, exec_swi] at hentry
  obtain ⟨target, -, rfl⟩ := enterTrap_next hentry
  have hpc : s.sampled.advance.pcNormal = s.pc + 1 := by
    simpa [hnormal] using s.sampled.advance_pcBecame.pcNormal_eq
  have hflags : s.sampled.advance.flNormal = s.flags := by
    rw [State.advance_flNormal, State.flags_eq_ite, hnormal]
    rfl
  have hreturned := reti_after_handlerRun hrun hS hq hfetch hreti h
  rw [State.trapTo_pcNormal, State.trapTo_flNormal, hpc, hflags] at hreturned
  exact hreturned

/-- Settles O23: the interrupt leaves the normal view as it found it, at the address not yet fetched. -/
theorem interruptHandlerReturnsToInterrupted : Obligations.InterruptHandlerReturnsToInterrupted := by
  intro s t u v x hnormal hhalted hreset hirq hentry hrun hS hq hfetch hreti h
  rw [step_irq hreset hhalted hirq] at hentry
  obtain ⟨target, -, rfl⟩ := enterTrap_next hentry
  have hreturned := reti_after_handlerRun hrun hS hq hfetch hreti h
  have hpc : s.pc = s.pcNormal := by simp [State.pc_eq_ite, hnormal]
  have hflags : s.flags = s.flNormal := by simp [State.flags_eq_ite, hnormal]
  rw [hpc, hflags]
  exact hreturned

end Sys2Proof.Machine
end
